-- ==== Sys2Proof/Word.lean ====
section
/-! DEFINITION. The word types of the machine (00_scope.md R6, R7, R10), the register numbers
(10_state.md R20) and one slot of program text as its eight bytes (30_encoding.md R81). -/

namespace Sys2Proof

/-- A register value or an address: XLEN = 64 bits (00_scope.md R6, R7). -/
abbrev Word := BitVec 64

/-- The operand and result of a 32-bit operation (10_state.md R35). -/
abbrev Word32 := BitVec 32

/-- One byte of memory or of program text. -/
abbrev Byte := BitVec 8

/-- A register number: R0 to R10 (10_state.md R20). Register fields 11 to 15 never reach the
machine: the decoder refuses them (R21). -/
abbrev Reg := Fin 11

/-- The frame pointer R10, read-only to the program (10_state.md R25). -/
abbrev Reg.fp : Reg := 10

/-- What a register holds: a 64-bit value, or *no value* (10_state.md R24). *No value* is the spec's
own state of a register: R0 and R2 to R9 hold it at the start of a run (R34), R1 to R5 after a
call (R23), R0 and R6 to R9 on entry to a program-local function (41_jump.md R202). -/
inductive RegContent where
  | noValue
  | value (v : Word)
deriving DecidableEq, Repr, Inhabited

/-- One 64-bit slot of program text, its eight bytes in program order (30_encoding.md R81). -/
structure Slot where
  b0 : Byte
  b1 : Byte
  b2 : Byte
  b3 : Byte
  b4 : Byte
  b5 : Byte
  b6 : Byte
  b7 : Byte
deriving DecidableEq, Repr

end Sys2Proof
end

