-- ==== Sys2Proof/Config.lean ====
section
/-! DEFINITION. What the platform fixes for a run: the parameters of 00_scope.md R8 with the spec's
defaults, what a helper is (41_jump.md R201), and the free values of the model (opaque constants
without a body). -/

namespace Sys2Proof

/-- HOST_ENDIAN (00_scope.md R8): the order of the `regs` nibbles, of the multi-byte fields of a
slot and of data memory, and what the TO_LE and TO_BE swaps do. -/
inductive Endian where
  | le
  | be
deriving DecidableEq, Repr, Inhabited

/-- ALIGN_POLICY (00_scope.md R8, 20_memory.md R57). -/
inductive AlignPolicy where
  /-- A misaligned plain access faults. -/
  | strict
  /-- A misaligned plain access is performed byte by byte. -/
  | bytewise
deriving DecidableEq, Repr, Inhabited

/-- The conformance groups the source names (00_scope.md R2). -/
inductive Group where
  | base32
  | base64
  | atomic32
  | atomic64
deriving DecidableEq, Repr, Inhabited

/-- FRAME_FP (00_scope.md R8, 41_jump.md R203): the value of R10 in frame `d`. -/
inductive FrameLayout where
  /-- The default: `FP0 - d * STACK_SIZE`. -/
  | descending
  /-- The platform's own layout: the frame pointers of frames 0, 1, 2, … in order. A frame the
  table does not list has the default frame pointer (DESIGN CHOICE, log 12). -/
  | table (fps : List Word)
deriving DecidableEq, Repr, Inhabited

/-- A range of byte addresses `[base, base + size)`. -/
structure AddrRange where
  base : Nat
  size : Nat
deriving DecidableEq, Repr, Inhabited

/-- MEMMAP (20_memory.md R51): the readable and the writable byte addresses, each as a union of
ranges. -/
structure MemMap where
  readable : List AddrRange
  writable : List AddrRange
deriving DecidableEq, Repr, Inhabited

namespace Machine

/-- Whether an access reads or writes (60_exceptions.md R301). -/
inductive Access where
  | read
  | write
deriving DecidableEq, Repr, Inhabited

/-- What an `Unsupported` fault names: a feature the source names and defines nothing of
(60_exceptions.md R310). -/
inductive Feature where
  /-- Modes ABS and IND (44_immediate64.md R290, R291). -/
  | legacyPacketAccess
  /-- `call_btf` with an id not in HELPERS_BTF (41_jump.md R204). -/
  | callByBtfId
  /-- `ld_map_fd` where MAP_BY_FD is undefined (44_immediate64.md R282). -/
  | mapByFd
  /-- `ld_map_val_fd` and `ld_map_val_idx` where the map or its value is undefined
  (44_immediate64.md R283, R287). -/
  | mapVal
  /-- `ld_var_addr` where VAR_ADDR is undefined (44_immediate64.md R284). -/
  | varAddr
  /-- `ld_code_addr` where CODE_ADDR is undefined (44_immediate64.md R285). -/
  | codeAddr
  /-- `ld_map_idx` where MAP_BY_IDX is undefined (44_immediate64.md R286). -/
  | mapByIdx
deriving DecidableEq, Repr, Inhabited

end Machine

/-! ### Helpers (41_jump.md R200, R201, R204) -/

/-- What a helper is given (41_jump.md R201): the contents of R1 to R5, data memory and MEMMAP. Data
memory is the bytes something has written and the choice of all others (log 5). -/
structure HelperCall where
  args : List RegContent
  mem : List Host.Cell
  memSeed : Nat
  memMap : MemMap
deriving DecidableEq, Repr, Inhabited

/-- What a helper's `Return` gives (41_jump.md R201): R0, the bytes of memory it changes, in the order
it writes them, and the new MEMMAP where it changes it. -/
structure HelperReturn where
  r0 : Word
  writes : List (Word × Byte)
  memMap : Option MemMap
deriving DecidableEq, Repr, Inhabited

/-- A fault inside a helper: one of the nine of 60_exceptions.md R301. It has no slot index of its own,
since it "is reported as the fault of the `call` instruction" (R322). -/
inductive HelperFault where
  | illegalEncoding
  | pcOutOfRange (target : Int)
  | jumpIntoWide (target : Nat)
  | uninitRegister (reg : Reg)
  | memAccess (addr : Word) (size : Nat) (kind : Machine.Access)
  | misaligned (addr : Word) (size : Nat)
  | unknownHelper (id : BitVec 32)
  | callDepth
  | unsupported (what : Machine.Feature)
deriving DecidableEq, Repr, Inhabited

/-- One outcome of a helper call (41_jump.md R201). -/
inductive HelperOutcome where
  /-- `Return(r0, mem', memmap')`. -/
  | returns (r : HelperReturn)
  /-- `Fault(f)`. -/
  | faults (f : HelperFault)
  /-- The helper does not return to the next instruction. -/
  | leaves
deriving DecidableEq, Repr, Inhabited

/-- A set of outcomes that is written out; it is not empty. -/
structure HelperOutcomes where
  first : HelperOutcome
  others : List HelperOutcome
deriving DecidableEq, Repr, Inhabited

/-- A row of a helper that is written out: the outcomes where R1, R2, … hold what `args` says,
`none` standing for any content. -/
structure HelperCase where
  args : List (Option RegContent)
  outcomes : HelperOutcomes
deriving DecidableEq, Repr, Inhabited

/-- A helper function: "a platform-supplied relation" of the call and its outcomes (41_jump.md R201).
State is plain data, so the relation is given in one of two forms (DESIGN CHOICE, log 9). -/
inductive Helper where
  /-- Any relation at all: the outcomes of a call are those of `Config.helperOutcome name`. -/
  | platform (name : Nat)
  /-- Written out: the outcomes of the first row that fits the arguments, else `otherwise`. -/
  | table (rows : List HelperCase) (otherwise : HelperOutcomes)
deriving DecidableEq, Repr, Inhabited

/-- An entry of HELPERS or HELPERS_BTF (00_scope.md R8; 41_jump.md R200, R204): an id, the helper it
maps to, and the argument registers that helper needs, `k` standing for R(k+1), in the order they are
examined (41_jump.md R201; log 19). -/
structure HelperEntry where
  id : BitVec 32
  needs : List (Fin 5)
  helper : Helper
deriving DecidableEq, Repr, Inhabited

/-- The parameters of a run (00_scope.md R8) other than PROGRAM and MEMMAP, which have fields of
State of their own. No step changes them. Partial maps are association lists. -/
structure Params where
  /-- HOST_ENDIAN. -/
  hostEndian : Endian
  /-- ALIGN_POLICY. -/
  alignPolicy : AlignPolicy
  /-- SHIFT_MASK64 (40_arithmetic.md R122). -/
  shiftMask64 : Word
  /-- SHIFT_MASK32 (40_arithmetic.md R122). -/
  shiftMask32 : Word32
  /-- STACK_SIZE (41_jump.md R203). -/
  stackSize : Nat
  /-- MAX_CALL_DEPTH (41_jump.md R202). -/
  maxCallDepth : Nat
  /-- FRAME_FP (41_jump.md R203). -/
  frameLayout : FrameLayout
  /-- GROUPS (00_scope.md R2). -/
  groups : List Group
  /-- CTX, the value of R1 at start (10_state.md R34). -/
  ctx : Word
  /-- FP0, the value of R10 at start (10_state.md R34). -/
  fp0 : Word
  /-- HELPERS: the helpers offered by static id (41_jump.md R200). -/
  helpers : List HelperEntry
  /-- HELPERS_BTF: the helpers offered by BTF id (41_jump.md R204). -/
  helpersBtf : List HelperEntry
  /-- MAP_BY_FD (44_immediate64.md R282). -/
  mapByFd : List (BitVec 32 × Word)
  /-- MAP_BY_IDX (44_immediate64.md R286). -/
  mapByIdx : List (BitVec 32 × Word)
  /-- MAP_VAL (44_immediate64.md R283). -/
  mapVal : List (Word × Word)
  /-- VAR_ADDR (44_immediate64.md R284). -/
  varAddr : List (BitVec 32 × Word)
  /-- CODE_ADDR, keyed by the slot index of the instruction and the signed offset
  (44_immediate64.md R285). -/
  codeAddr : List ((Nat × Int) × Word)
deriving DecidableEq, Repr, Inhabited

/-- The spec's defaults (00_scope.md R8). CTX and FP0 are the platform's and have no default: they
take the numbers of the spec's own example programs (95_test_vectors.md section 5), DESIGN CHOICE,
log 2 and log 3. HELPERS is the platform's too: none is offered, DESIGN CHOICE, log 10. -/
def Params.default : Params where
  hostEndian := .le
  alignPolicy := .strict
  shiftMask64 := 0x3f
  shiftMask32 := 0x1f
  stackSize := 512
  maxCallDepth := 8
  frameLayout := .descending
  groups := [.base32, .base64, .atomic32, .atomic64]
  ctx := 0x2000
  fp0 := 0x10000
  helpers := []
  helpersBtf := []
  mapByFd := []
  mapByIdx := []
  mapVal := []
  varAddr := []
  codeAddr := []

namespace Config

/-- FREE VALUE (log 5): what a byte of data memory that nothing has written holds, at address
`addr`, for the choice of start contents `seed` (State.memSeed). "each byte has some fixed value
the model may not assume" (70_reset_and_hazards.md R341; 20_memory.md R55). -/
opaque unwrittenByte (seed addr : Nat) : Byte

/-- FREE VALUE (log 9): the relation of the platform's helper `name`. Its outcomes on a call are
`helperOutcome name call 0`, `helperOutcome name call 1`, … The spec takes a helper as "a
platform-supplied relation" and gives none (41_jump.md R201). -/
opaque helperOutcome (name : Nat) (call : HelperCall) (pick : Nat) : HelperOutcome

/-- FREE VALUE (log 9): which of its outcomes the `draw`-th helper call gives, where State.answers does
not say. "The call step picks any outcome in the set" (41_jump.md R201). -/
opaque helperPick (draw : Nat) : Nat

end Config

end Sys2Proof
end

