-- ==== Sys2Proof/Syntax.lean ====
section
/-! DEFINITION. The instructions: one constructor per mnemonic of spec/opcode_table.json. An
instruction that has a K and an X row is one constructor whose source operand is a `Src`
(30_encoding.md R90). Fields the instruction does not use are not kept: they are zero or ignored
(30_encoding.md R100). -/

namespace Sys2Proof

/-- The source operand the `s` bit of the opcode byte selects (30_encoding.md R90): `K`, the 32-bit
immediate, or `X`, a register. -/
inductive Src where
  | imm (v : BitVec 32)
  | reg (r : Reg)
deriving DecidableEq, Repr

/-- The instructions of the BPF machine, in the order of the opcode table's families. `dst`, `src`
and `base` are register numbers, `off` the 16-bit offset field, `imm` and `next` the 32-bit
immediates, all as raw bits (30_encoding.md R86, R94). -/
inductive Instr where
  -- arithmetic, classes ALU64 and ALU (40_arithmetic.md)
  /-- `add64`: 40_arithmetic.md R130. -/
  | add64 (dst : Reg) (src : Src)
  /-- `add32`: 40_arithmetic.md R131. -/
  | add32 (dst : Reg) (src : Src)
  /-- `sub64`: 40_arithmetic.md R132. -/
  | sub64 (dst : Reg) (src : Src)
  /-- `sub32`: 40_arithmetic.md R133. -/
  | sub32 (dst : Reg) (src : Src)
  /-- `mul64`: 40_arithmetic.md R134. -/
  | mul64 (dst : Reg) (src : Src)
  /-- `mul32`: 40_arithmetic.md R135. -/
  | mul32 (dst : Reg) (src : Src)
  /-- `div64`: 40_arithmetic.md R136. -/
  | div64 (dst : Reg) (src : Src)
  /-- `div32`: 40_arithmetic.md R137. -/
  | div32 (dst : Reg) (src : Src)
  /-- `sdiv64`: 40_arithmetic.md R138. -/
  | sdiv64 (dst : Reg) (src : Src)
  /-- `sdiv32`: 40_arithmetic.md R139. -/
  | sdiv32 (dst : Reg) (src : Src)
  /-- `or64`: 40_arithmetic.md R140. -/
  | or64 (dst : Reg) (src : Src)
  /-- `or32`: 40_arithmetic.md R141. -/
  | or32 (dst : Reg) (src : Src)
  /-- `and64`: 40_arithmetic.md R142. -/
  | and64 (dst : Reg) (src : Src)
  /-- `and32`: 40_arithmetic.md R143. -/
  | and32 (dst : Reg) (src : Src)
  /-- `lsh64`: 40_arithmetic.md R144. -/
  | lsh64 (dst : Reg) (src : Src)
  /-- `lsh32`: 40_arithmetic.md R145. -/
  | lsh32 (dst : Reg) (src : Src)
  /-- `rsh64`: 40_arithmetic.md R146. -/
  | rsh64 (dst : Reg) (src : Src)
  /-- `rsh32`: 40_arithmetic.md R147. -/
  | rsh32 (dst : Reg) (src : Src)
  /-- `mod64`: 40_arithmetic.md R154. -/
  | mod64 (dst : Reg) (src : Src)
  /-- `mod32`: 40_arithmetic.md R155. -/
  | mod32 (dst : Reg) (src : Src)
  /-- `smod64`: 40_arithmetic.md R156. -/
  | smod64 (dst : Reg) (src : Src)
  /-- `smod32`: 40_arithmetic.md R157. -/
  | smod32 (dst : Reg) (src : Src)
  /-- `xor64`: 40_arithmetic.md R158. -/
  | xor64 (dst : Reg) (src : Src)
  /-- `xor32`: 40_arithmetic.md R159. -/
  | xor32 (dst : Reg) (src : Src)
  /-- `mov64`: 40_arithmetic.md R161. -/
  | mov64 (dst : Reg) (src : Src)
  /-- `mov32`: 40_arithmetic.md R162. -/
  | mov32 (dst : Reg) (src : Src)
  /-- `arsh64`: 40_arithmetic.md R168. -/
  | arsh64 (dst : Reg) (src : Src)
  /-- `arsh32`: 40_arithmetic.md R169. -/
  | arsh32 (dst : Reg) (src : Src)
  -- NEG
  /-- `neg64`: 40_arithmetic.md R152. -/
  | neg64 (dst : Reg)
  /-- `neg32`: 40_arithmetic.md R153. -/
  | neg32 (dst : Reg)
  -- MOVSX
  /-- `movsx8_64`: 40_arithmetic.md R163. -/
  | movsx8_64 (dst : Reg) (src : Reg)
  /-- `movsx16_64`: 40_arithmetic.md R164. -/
  | movsx16_64 (dst : Reg) (src : Reg)
  /-- `movsx32_64`: 40_arithmetic.md R165. -/
  | movsx32_64 (dst : Reg) (src : Reg)
  /-- `movsx8_32`: 40_arithmetic.md R166. -/
  | movsx8_32 (dst : Reg) (src : Reg)
  /-- `movsx16_32`: 40_arithmetic.md R167. -/
  | movsx16_32 (dst : Reg) (src : Reg)
  -- byte swaps (END)
  /-- `le16`: 40_arithmetic.md R171. -/
  | le16 (dst : Reg)
  /-- `le32`: 40_arithmetic.md R172. -/
  | le32 (dst : Reg)
  /-- `le64`: 40_arithmetic.md R173. -/
  | le64 (dst : Reg)
  /-- `be16`: 40_arithmetic.md R174. -/
  | be16 (dst : Reg)
  /-- `be32`: 40_arithmetic.md R175. -/
  | be32 (dst : Reg)
  /-- `be64`: 40_arithmetic.md R176. -/
  | be64 (dst : Reg)
  /-- `bswap16`: 40_arithmetic.md R177. -/
  | bswap16 (dst : Reg)
  /-- `bswap32`: 40_arithmetic.md R178. -/
  | bswap32 (dst : Reg)
  /-- `bswap64`: 40_arithmetic.md R179. -/
  | bswap64 (dst : Reg)
  -- jumps (41_jump.md)
  /-- `ja`: 41_jump.md R183. -/
  | ja (off : BitVec 16)
  /-- `ja32`: 41_jump.md R184. -/
  | ja32 (imm : BitVec 32)
  -- conditional jumps: class JMP compares 64 bits, class JMP32 compares 32
  /-- `jeq64`: 41_jump.md R185. -/
  | jeq64 (dst : Reg) (src : Src) (off : BitVec 16)
  /-- `jeq32`: 41_jump.md R186. -/
  | jeq32 (dst : Reg) (src : Src) (off : BitVec 16)
  /-- `jgt64`: 41_jump.md R187. -/
  | jgt64 (dst : Reg) (src : Src) (off : BitVec 16)
  /-- `jgt32`: 41_jump.md R188. -/
  | jgt32 (dst : Reg) (src : Src) (off : BitVec 16)
  /-- `jge64`: 41_jump.md R189. -/
  | jge64 (dst : Reg) (src : Src) (off : BitVec 16)
  /-- `jge32`: 41_jump.md R190. -/
  | jge32 (dst : Reg) (src : Src) (off : BitVec 16)
  /-- `jset64`: 41_jump.md R191. -/
  | jset64 (dst : Reg) (src : Src) (off : BitVec 16)
  /-- `jset32`: 41_jump.md R192. -/
  | jset32 (dst : Reg) (src : Src) (off : BitVec 16)
  /-- `jne64`: 41_jump.md R193. -/
  | jne64 (dst : Reg) (src : Src) (off : BitVec 16)
  /-- `jne32`: 41_jump.md R194. -/
  | jne32 (dst : Reg) (src : Src) (off : BitVec 16)
  /-- `jsgt64`: 41_jump.md R195. -/
  | jsgt64 (dst : Reg) (src : Src) (off : BitVec 16)
  /-- `jsgt32`: 41_jump.md R196. -/
  | jsgt32 (dst : Reg) (src : Src) (off : BitVec 16)
  /-- `jsge64`: 41_jump.md R197. -/
  | jsge64 (dst : Reg) (src : Src) (off : BitVec 16)
  /-- `jsge32`: 41_jump.md R198. -/
  | jsge32 (dst : Reg) (src : Src) (off : BitVec 16)
  /-- `jlt64`: 41_jump.md R207. -/
  | jlt64 (dst : Reg) (src : Src) (off : BitVec 16)
  /-- `jlt32`: 41_jump.md R208. -/
  | jlt32 (dst : Reg) (src : Src) (off : BitVec 16)
  /-- `jle64`: 41_jump.md R209. -/
  | jle64 (dst : Reg) (src : Src) (off : BitVec 16)
  /-- `jle32`: 41_jump.md R210. -/
  | jle32 (dst : Reg) (src : Src) (off : BitVec 16)
  /-- `jslt64`: 41_jump.md R211. -/
  | jslt64 (dst : Reg) (src : Src) (off : BitVec 16)
  /-- `jslt32`: 41_jump.md R212. -/
  | jslt32 (dst : Reg) (src : Src) (off : BitVec 16)
  /-- `jsle64`: 41_jump.md R213. -/
  | jsle64 (dst : Reg) (src : Src) (off : BitVec 16)
  /-- `jsle32`: 41_jump.md R214. -/
  | jsle32 (dst : Reg) (src : Src) (off : BitVec 16)
  -- calls and exit
  /-- `call_helper`: 41_jump.md R200. -/
  | callHelper (imm : BitVec 32)
  /-- `call_local`: 41_jump.md R202. -/
  | callLocal (imm : BitVec 32)
  /-- `call_btf`: 41_jump.md R204. -/
  | callBtf (imm : BitVec 32)
  /-- `exit`: 41_jump.md R205. -/
  | exit
  -- loads (42_load_store.md)
  /-- `ldxw`: 42_load_store.md R224. -/
  | ldxw (dst : Reg) (base : Reg) (off : BitVec 16)
  /-- `ldxh`: 42_load_store.md R225. -/
  | ldxh (dst : Reg) (base : Reg) (off : BitVec 16)
  /-- `ldxb`: 42_load_store.md R226. -/
  | ldxb (dst : Reg) (base : Reg) (off : BitVec 16)
  /-- `ldxdw`: 42_load_store.md R227. -/
  | ldxdw (dst : Reg) (base : Reg) (off : BitVec 16)
  /-- `ldxsw`: 42_load_store.md R240. -/
  | ldxsw (dst : Reg) (base : Reg) (off : BitVec 16)
  /-- `ldxsh`: 42_load_store.md R241. -/
  | ldxsh (dst : Reg) (base : Reg) (off : BitVec 16)
  /-- `ldxsb`: 42_load_store.md R242. -/
  | ldxsb (dst : Reg) (base : Reg) (off : BitVec 16)
  -- stores of an immediate
  /-- `stw`: 42_load_store.md R228. -/
  | stw (base : Reg) (off : BitVec 16) (imm : BitVec 32)
  /-- `sth`: 42_load_store.md R229. -/
  | sth (base : Reg) (off : BitVec 16) (imm : BitVec 32)
  /-- `stb`: 42_load_store.md R230. -/
  | stb (base : Reg) (off : BitVec 16) (imm : BitVec 32)
  /-- `stdw`: 42_load_store.md R231. -/
  | stdw (base : Reg) (off : BitVec 16) (imm : BitVec 32)
  -- stores of a register
  /-- `stxw`: 42_load_store.md R232. -/
  | stxw (base : Reg) (off : BitVec 16) (src : Reg)
  /-- `stxh`: 42_load_store.md R233. -/
  | stxh (base : Reg) (off : BitVec 16) (src : Reg)
  /-- `stxb`: 42_load_store.md R234. -/
  | stxb (base : Reg) (off : BitVec 16) (src : Reg)
  /-- `stxdw`: 42_load_store.md R235. -/
  | stxdw (base : Reg) (off : BitVec 16) (src : Reg)
  -- atomics (43_atomic.md)
  /-- `atomic_add32`: 43_atomic.md R254. -/
  | atomicAdd32 (base : Reg) (off : BitVec 16) (src : Reg)
  /-- `atomic_add64`: 43_atomic.md R255. -/
  | atomicAdd64 (base : Reg) (off : BitVec 16) (src : Reg)
  /-- `atomic_or32`: 43_atomic.md R256. -/
  | atomicOr32 (base : Reg) (off : BitVec 16) (src : Reg)
  /-- `atomic_or64`: 43_atomic.md R257. -/
  | atomicOr64 (base : Reg) (off : BitVec 16) (src : Reg)
  /-- `atomic_and32`: 43_atomic.md R258. -/
  | atomicAnd32 (base : Reg) (off : BitVec 16) (src : Reg)
  /-- `atomic_and64`: 43_atomic.md R259. -/
  | atomicAnd64 (base : Reg) (off : BitVec 16) (src : Reg)
  /-- `atomic_xor32`: 43_atomic.md R260. -/
  | atomicXor32 (base : Reg) (off : BitVec 16) (src : Reg)
  /-- `atomic_xor64`: 43_atomic.md R261. -/
  | atomicXor64 (base : Reg) (off : BitVec 16) (src : Reg)
  /-- `atomic_fetch_add32`: 43_atomic.md R262. -/
  | atomicFetchAdd32 (base : Reg) (off : BitVec 16) (src : Reg)
  /-- `atomic_fetch_add64`: 43_atomic.md R263. -/
  | atomicFetchAdd64 (base : Reg) (off : BitVec 16) (src : Reg)
  /-- `atomic_fetch_or32`: 43_atomic.md R264. -/
  | atomicFetchOr32 (base : Reg) (off : BitVec 16) (src : Reg)
  /-- `atomic_fetch_or64`: 43_atomic.md R265. -/
  | atomicFetchOr64 (base : Reg) (off : BitVec 16) (src : Reg)
  /-- `atomic_fetch_and32`: 43_atomic.md R266. -/
  | atomicFetchAnd32 (base : Reg) (off : BitVec 16) (src : Reg)
  /-- `atomic_fetch_and64`: 43_atomic.md R267. -/
  | atomicFetchAnd64 (base : Reg) (off : BitVec 16) (src : Reg)
  /-- `atomic_fetch_xor32`: 43_atomic.md R268. -/
  | atomicFetchXor32 (base : Reg) (off : BitVec 16) (src : Reg)
  /-- `atomic_fetch_xor64`: 43_atomic.md R269. -/
  | atomicFetchXor64 (base : Reg) (off : BitVec 16) (src : Reg)
  /-- `atomic_xchg32`: 43_atomic.md R270. -/
  | atomicXchg32 (base : Reg) (off : BitVec 16) (src : Reg)
  /-- `atomic_xchg64`: 43_atomic.md R271. -/
  | atomicXchg64 (base : Reg) (off : BitVec 16) (src : Reg)
  /-- `atomic_cmpxchg32`: 43_atomic.md R272. -/
  | atomicCmpxchg32 (base : Reg) (off : BitVec 16) (src : Reg)
  /-- `atomic_cmpxchg64`: 43_atomic.md R273. -/
  | atomicCmpxchg64 (base : Reg) (off : BitVec 16) (src : Reg)
  -- 64-bit immediates (44_immediate64.md): the wide instructions
  /-- `lddw`: 44_immediate64.md R281. -/
  | lddw (dst : Reg) (imm : BitVec 32) (next : BitVec 32)
  /-- `ld_map_fd`: 44_immediate64.md R282. -/
  | ldMapFd (dst : Reg) (imm : BitVec 32)
  /-- `ld_map_val_fd`: 44_immediate64.md R283. -/
  | ldMapValFd (dst : Reg) (imm : BitVec 32) (next : BitVec 32)
  /-- `ld_var_addr`: 44_immediate64.md R284. -/
  | ldVarAddr (dst : Reg) (imm : BitVec 32)
  /-- `ld_code_addr`: 44_immediate64.md R285. -/
  | ldCodeAddr (dst : Reg) (imm : BitVec 32)
  /-- `ld_map_idx`: 44_immediate64.md R286. -/
  | ldMapIdx (dst : Reg) (imm : BitVec 32)
  /-- `ld_map_val_idx`: 44_immediate64.md R287. -/
  | ldMapValIdx (dst : Reg) (imm : BitVec 32) (next : BitVec 32)
deriving DecidableEq, Repr

end Sys2Proof
end

