-- ==== Sys2Proof/Machine/State.lean ====
section
/-! DEFINITION. The state of the machine as plain data (10_state.md), the reasons a step can stop
(60_exceptions.md R301) and the state after reset (10_state.md R34). INVENTORY.md, under State,
lists every field with its rule and its reset value. -/

namespace Sys2Proof.Machine

/-- The nine faults (60_exceptions.md R301). Each carries the slot index `pc` of the faulting
instruction first. A fault ends the run and changes nothing else (R300): safe, the spec itself says
so. -/
inductive Fault where
  /-- Raised by decode: the word at `pc` spells no instruction (60_exceptions.md R302). Safe. -/
  | illegalEncoding (pc : Nat)
  /-- Raised by fetch and by a control transfer to a target outside the program
  (60_exceptions.md R303). Safe. -/
  | pcOutOfRange (pc : Nat) (target : Int)
  /-- Raised by a control transfer to the second slot of a wide instruction
  (60_exceptions.md R304). Safe: the source calls it undefined behaviour. -/
  | jumpIntoWide (pc : Nat) (target : Nat)
  /-- Raised by an instruction or a helper that reads a register that holds no value: "at start `R0`
  and `R2` to `R9`", and after calls (60_exceptions.md R305; 10_state.md R24;
  70_reset_and_hazards.md R341). Safe. -/
  | uninitRegister (pc : Nat) (reg : Reg)
  /-- Raised by an access outside MEMMAP or past the top of the address space
  (60_exceptions.md R306). Safe. -/
  | memAccess (pc : Nat) (addr : Word) (size : Nat) (kind : Access)
  /-- Raised by a misaligned access (60_exceptions.md R307). Safe. -/
  | misaligned (pc : Nat) (addr : Word) (size : Nat)
  /-- Raised by `call_helper` with an id not in HELPERS (60_exceptions.md R308). Safe. -/
  | unknownHelper (pc : Nat) (id : BitVec 32)
  /-- Raised by `call_local` when MAX_CALL_DEPTH frames are live (60_exceptions.md R309). Safe. -/
  | callDepth (pc : Nat)
  /-- Raised where the source names a feature that neither it nor the platform defines
  (60_exceptions.md R310). Safe. -/
  | unsupported (pc : Nat) (what : Feature)
deriving DecidableEq, Repr

/-- What a step refuses to give a meaning to. -/
inductive Refusal where
  /-- Raised by `exec` for an instruction that has no meaning yet. No arm of `exec` raises it. Safe. -/
  | notModelled (mnemonic : String)
  /-- Raised by a helper call whose helper does not return to the next instruction: "outside this
  contract and the model refuses them" (41_jump.md R201). Safe. -/
  | helperDoesNotReturn
deriving DecidableEq, Repr

/-- The status of a run (10_state.md R33). -/
inductive RunStatus where
  | running
  /-- Ended by the final `exit` with the 64-bit value of R0. -/
  | exited (v : Word)
  /-- Ended by a fault. A step that faults answers `fault f`; the state the run then ends in has this
  status (`State.faulted`; log 11). -/
  | faulted (f : Fault)
deriving DecidableEq, Repr

/-- A frame of the hidden call stack: the return slot and the caller's R6 to R10 (10_state.md R28). -/
structure Frame where
  ret : Nat
  r6 : RegContent
  r7 : RegContent
  r8 : RegContent
  r9 : RegContent
  r10 : RegContent
deriving DecidableEq, Repr

/-- Data memory (10_state.md R31): the bytes something has written, addresses strictly rising. A byte
nothing has written is not listed; a load of it gives the free value of `Config.unwrittenByte`. -/
abbrev Memory := List Host.Cell

/-- The state of the machine. -/
structure State where
  /-- R0 to R10 (10_state.md R20, R24). -/
  regs : Vector RegContent 11
  /-- The index of a slot of the program (10_state.md R26). -/
  pc : Nat
  /-- The frames of the callers, newest first (10_state.md R28). -/
  callStack : List Frame
  /-- Data memory (10_state.md R31). -/
  mem : Memory
  /-- MEMMAP (20_memory.md R51). -/
  memMap : MemMap
  /-- The run status (10_state.md R33). -/
  status : RunStatus
  /-- PROGRAM, fixed for the run (10_state.md R32). -/
  program : List Slot
  /-- The other parameters of the run, fixed for it (00_scope.md R8). -/
  params : Params
  /-- The model's own: the platform's choices among the outcomes of the helper calls to come, as
  numbers of outcomes, oldest first (log 9). -/
  answers : List Nat
  /-- The model's own: how many helper calls have returned; it selects the free choice of
  `Config.helperPick` (log 9). -/
  draws : Nat
  /-- The model's own: which start contents of memory this run has (log 5). -/
  memSeed : Nat
deriving DecidableEq, Repr

/-- Memory with nothing listed: every byte is one that nothing has written (log 5). -/
def Memory.empty : Memory := []

/-- R0 to R10 at the start of a run (10_state.md R34; 70_reset_and_hazards.md R341): R1 holds CTX, R10
holds FP0, the others hold no value. -/
def startRegs (p : Params) : Vector RegContent 11 :=
  #v[.noValue, .value p.ctx, .noValue, .noValue, .noValue, .noValue, .noValue, .noValue, .noValue,
    .noValue, .value p.fp0]

/-- The start of a run on any platform (10_state.md R34; 70_reset_and_hazards.md R341;
60_exceptions.md R331): the platform supplies the program, the parameters, memory and MEMMAP. -/
def State.start (program : List Slot) (params : Params) (mem : Memory) (memMap : MemMap)
    (answers : List Nat) (memSeed : Nat) : State where
  regs := startRegs params
  pc := 0
  callStack := []
  mem := mem
  memMap := memMap
  status := .running
  program := program
  params := params
  answers := answers
  draws := 0
  memSeed := memSeed

/-- The ranges of all frames under the default layout, `[FP0 - MAX_CALL_DEPTH * STACK_SIZE, FP0)`
(10_state.md R34; 20_memory.md R51). Where FP0 is less than MAX_CALL_DEPTH * STACK_SIZE the spec does
not say what the range is; here it is `[0, FP0)` (DESIGN CHOICE, log 4). -/
def stackRange (p : Params) : AddrRange :=
  let base := p.fp0.toNat - p.maxCallDepth * p.stackSize
  ⟨base, p.fp0.toNat - base⟩

/-- The machine right after reset: the start of a run (70_reset_and_hazards.md R340, R341) on the
default platform, with no program loaded (log 8), MEMMAP the stack ranges alone (log 4). -/
def State.reset : State :=
  .start [] .default .empty ⟨[stackRange .default], [stackRange .default]⟩ [] 0

end Sys2Proof.Machine
end

