-- ==== Sys2Proof/Machine/Ops.lean ====
section
/-! DEFINITION. The shared operations: raising a fault, the registers, the program counter, data
memory and the call stack. Every meaning is written over these. -/

namespace Sys2Proof.Machine

/-- The outcome of a step of this machine. -/
abbrev Result := Host.Outcome State Fault Refusal

/-! ### Faults (60_exceptions.md R300) -/

/-- Raising a fault ends the run (60_exceptions.md R300). The machine has no handler, no saved
program counter and no return from a fault (R314, R322), so this is the whole of taking one. -/
def raise (f : Fault) : Result := .fault f

/-- The state a run that faults with `f` in `s` ends in: the faulting instruction "has changed nothing:
no register, no byte of memory, not `pc`, not the call stack" (60_exceptions.md R300), and the
status is `Faulted` (10_state.md R33). -/
def State.faulted (s : State) (f : Fault) : State := { s with status := .faulted f }

/-- The fault of a `call` at slot `pc` whose helper faults: a fault inside a helper is "the fault of the
`call` instruction" (60_exceptions.md R322). -/
def faultOfHelper (pc : Nat) : HelperFault → Fault
  | .illegalEncoding => .illegalEncoding pc
  | .pcOutOfRange t => .pcOutOfRange pc t
  | .jumpIntoWide t => .jumpIntoWide pc t
  | .uninitRegister r => .uninitRegister pc r
  | .memAccess a n k => .memAccess pc a n k
  | .misaligned a n => .misaligned pc a n
  | .unknownHelper i => .unknownHelper pc i
  | .callDepth => .callDepth pc
  | .unsupported w => .unsupported pc w

/-- Go on with the value of a check or a read, or raise its fault. -/
def orFault {α : Type} (r : Except Fault α) (k : α → Result) : Result :=
  match r with
  | .ok a => k a
  | .error f => raise f

/-! ### Registers (10_state.md R20 to R25) -/

/-- What register `r` holds. -/
def State.reg (s : State) (r : Reg) : RegContent := s.regs[r]

/-- Make register `r` hold `c`. -/
def State.setReg (s : State) (r : Reg) (c : RegContent) : State :=
  { s with regs := s.regs.set r c }

/-- `x[r] <- v` (00_scope.md R11). -/
def State.writeReg (s : State) (r : Reg) (v : Word) : State := s.setReg r (.value v)

/-- The registers of the list hold no value afterwards (10_state.md R24). -/
def State.clearRegs (s : State) : List Reg → State
  | [] => s
  | r :: rs => (s.setReg r .noValue).clearRegs rs

/-- `x[r]` (00_scope.md R11): the value of the register; a register that holds no value faults
(10_state.md R24; 60_exceptions.md R305). -/
def readReg (s : State) (r : Reg) : Except Fault Word :=
  match s.reg r with
  | .value v => .ok v
  | .noValue => .error (.uninitRegister s.pc r)

/-- `w[r]`, the low 32 bits of the register (00_scope.md R11); a register that holds no value faults
(10_state.md R24; 60_exceptions.md R305). -/
def readReg32 (s : State) (r : Reg) : Except Fault Word32 :=
  match s.reg r with
  | .value v => .ok (v.setWidth 32)
  | .noValue => .error (.uninitRegister s.pc r)

/-- Write a 32-bit result: the upper 32 bits become zero (10_state.md R35). -/
def State.writeReg32 (s : State) (r : Reg) (v : Word32) : State := s.writeReg r (v.setWidth 64)

/-! ### The program counter (10_state.md R26, R27; 41_jump.md R181) -/

/-- The sequential advance by `n` slots, unchecked (10_state.md R27; 41_jump.md R181). -/
def State.advance (s : State) (n : Nat) : State := { s with pc := s.pc + n }

/-- The sweep of 41_jump.md R181 along the slots of a program: `skip` says that the slot at hand is
the second slot of a wide instruction, `k` counts the slots up to the one asked for. -/
def sweep (skip : Bool) : List Slot → Nat → Bool
  | [], _ => skip
  | _ :: _, 0 => skip
  | s :: rest, k + 1 => sweep (!skip && s.b0 == 0x18) rest k

/-- `SecondSlot(k)`: slot `k` is the second half of a wide instruction (41_jump.md R181). -/
def secondSlot (program : List Slot) (k : Nat) : Bool :=
  decide (k < program.length) && sweep false program k

/-- The check `SetPc` makes of a target before anything is committed (41_jump.md R181). -/
def jumpTarget (s : State) (t : Int) : Except Fault Nat :=
  if t < 0 ∨ (s.program.length : Int) ≤ t then .error (.pcOutOfRange s.pc t)
  else if secondSlot s.program t.toNat then .error (.jumpIntoWide s.pc t.toNat)
  else .ok t.toNat

/-- The slot `delta` slots after the one that follows the instruction, in the integers
(41_jump.md R181). -/
def relativeTarget (s : State) (delta : Int) : Int := (s.pc : Int) + 1 + delta

/-- A control transfer by `delta` slots (41_jump.md R181). -/
def jumpBy (s : State) (delta : Int) : Result :=
  orFault (jumpTarget s (relativeTarget s delta)) fun t => .next { s with pc := t }

/-! ### Memory as data (10_state.md R31) -/

/-- The byte something has written at an address. -/
def Memory.get : Memory → Nat → Option Byte
  | [], _ => none
  | (x, b) :: m, a => if a = x then some b else Memory.get m a

/-- Write one byte, keeping the addresses strictly rising. -/
def Memory.set : Memory → Nat → Byte → Memory
  | [], a, b => [(a, b)]
  | (x, c) :: m, a, b =>
    if a < x then (a, b) :: (x, c) :: m
    else if a = x then (a, b) :: m
    else (x, c) :: Memory.set m a b

/-- Write bytes at rising addresses from `a`. -/
def Memory.setBytes : Memory → Nat → List Byte → Memory
  | m, _, [] => m
  | m, a, b :: bs => Memory.setBytes (Memory.set m a b) (a + 1) bs

/-- The addresses rise strictly from `lo` on and lie in the 64-bit address space. -/
def Memory.risingFrom : Nat → Memory → Bool
  | _, [] => true
  | lo, (x, _) :: m => decide (lo ≤ x) && decide (x < 2 ^ 64) && Memory.risingFrom (x + 1) m

/-- The canonical form of memory: addresses strictly rising, each below 2^64. An unlisted address has
no byte of its own, so no entry can equal it. -/
def Memory.wf (m : Memory) : Bool := Memory.risingFrom 0 m

/-- The byte at an address: the one written last, or, where nothing has written, the free value of
log 5 (20_memory.md R55). This is the model's read of one byte. -/
def State.byteAt (s : State) (a : Nat) : Byte :=
  match s.mem.get a with
  | some b => b
  | none => Config.unwrittenByte s.memSeed a

/-- The `n` bytes from address `a` on. -/
def State.bytesAt (s : State) : Nat → Nat → List Byte
  | _, 0 => []
  | a, n + 1 => s.byteAt a :: s.bytesAt (a + 1) n

/-! ### Byte order (20_memory.md R53) -/

/-- The `n` low bytes of a number, the least significant first. -/
def leBytes : Nat → Nat → List Byte
  | 0, _ => []
  | n + 1, x => BitVec.ofNat 8 x :: leBytes n (x / 256)

/-- The number bytes spell, the least significant first. -/
def leValue : List Byte → Nat
  | [] => 0
  | b :: bs => b.toNat + 256 * leValue bs

/-- The number bytes at rising addresses spell in the host's order (20_memory.md R53). -/
def spell (e : Endian) (bs : List Byte) : Nat :=
  match e with
  | .le => leValue bs
  | .be => leValue bs.reverse

/-- The `n` bytes, at rising addresses, of a number in the host's order (20_memory.md R53). -/
def unspell (e : Endian) (n x : Nat) : List Byte :=
  match e with
  | .le => leBytes n x
  | .be => (leBytes n x).reverse

/-- The `w`-bit value the bytes from address `a` on spell (20_memory.md R53, R55). -/
def State.loadValue (s : State) (a w : Nat) : BitVec w :=
  BitVec.ofNat w (spell s.params.hostEndian (s.bytesAt a (w / 8)))

/-- Store the bytes of a `w`-bit value from address `a` on (20_memory.md R53, R56). -/
def State.storeValue (s : State) (a : Nat) {w : Nat} (v : BitVec w) : State :=
  { s with mem := s.mem.setBytes a (unspell s.params.hostEndian (w / 8) v.toNat) }

/-! ### The checks and primitives of memory (20_memory.md R51, R55 to R57) -/

/-- The address lies in the range. -/
def AddrRange.holds (r : AddrRange) (a : Nat) : Bool :=
  decide (r.base ≤ a) && decide (a < r.base + r.size)

/-- Every byte of `[a, a + n)` lies in one of the ranges. -/
def covered (rs : List AddrRange) (a n : Nat) : Bool :=
  (List.range n).all fun k => rs.any fun r => AddrRange.holds r (a + k)

/-- `MemRead(addr, w / 8)` (20_memory.md R55). -/
def memRead (s : State) (addr : Word) (w : Nat) : Except Fault (BitVec w) :=
  if 2 ^ 64 < addr.toNat + w / 8 then .error (.memAccess s.pc addr (w / 8) .read)
  else if s.params.alignPolicy = .strict ∧ addr.toNat % (w / 8) ≠ 0 then
    .error (.misaligned s.pc addr (w / 8))
  else if covered s.memMap.readable addr.toNat (w / 8) = false then
    .error (.memAccess s.pc addr (w / 8) .read)
  else .ok (s.loadValue addr.toNat w)

/-- `MemWrite(addr, w / 8, v)`: every check before any byte is stored (20_memory.md R56). -/
def memWrite (s : State) (addr : Word) {w : Nat} (v : BitVec w) : Except Fault State :=
  if 2 ^ 64 < addr.toNat + w / 8 then .error (.memAccess s.pc addr (w / 8) .write)
  else if s.params.alignPolicy = .strict ∧ addr.toNat % (w / 8) ≠ 0 then
    .error (.misaligned s.pc addr (w / 8))
  else if covered s.memMap.writable addr.toNat (w / 8) = false then
    .error (.memAccess s.pc addr (w / 8) .write)
  else .ok (s.storeValue addr.toNat v)

/-- The checks of an atomic access, under either alignment policy (43_atomic.md R251). -/
def atomicCheck (s : State) (addr : Word) (n : Nat) : Except Fault Unit :=
  if addr.toNat % n ≠ 0 then .error (.misaligned s.pc addr n)
  else if 2 ^ 64 < addr.toNat + n ∨ covered s.memMap.readable addr.toNat n = false then
    .error (.memAccess s.pc addr n .read)
  else if covered s.memMap.writable addr.toNat n = false then
    .error (.memAccess s.pc addr n .write)
  else .ok ()

/-! ### The call stack (10_state.md R28; 41_jump.md R202, R203, R205) -/

/-- `FRAME_FP(d)` by default: `FP0 - d * STACK_SIZE` (41_jump.md R203). -/
def descendingFp (p : Params) (d : Nat) : Word := p.fp0 - BitVec.ofNat 64 (d * p.stackSize)

/-- `FRAME_FP(d)` (41_jump.md R203). -/
def framePointer (p : Params) (d : Nat) : Word :=
  match p.frameLayout with
  | .descending => descendingFp p d
  | .table fps => (fps[d]?).getD (descendingFp p d)

/-- The frame a program-local call pushes (41_jump.md R202). -/
def State.callerFrame (s : State) : Frame where
  ret := s.pc + 1
  r6 := s.reg 6
  r7 := s.reg 7
  r8 := s.reg 8
  r9 := s.reg 9
  r10 := s.reg 10

/-- Enter the function at slot `t`: push the caller's frame, give R10 the callee's frame pointer, and
leave R0 and R6 to R9 without a value (41_jump.md R202). -/
def State.enterFunction (s : State) (t : Nat) : State :=
  let pushed := { s with callStack := s.callerFrame :: s.callStack, pc := t }
  (pushed.writeReg 10 (framePointer s.params pushed.callStack.length)).clearRegs [0, 6, 7, 8, 9]

/-- Return to the caller of frame `f`: R6 to R10 as saved, R1 to R5 without a value, R0 kept
(41_jump.md R205). -/
def State.leaveFunction (s : State) (f : Frame) (rest : List Frame) : State :=
  let popped := { s with callStack := rest, pc := f.ret }
  (((((popped.setReg 6 f.r6).setReg 7 f.r7).setReg 8 f.r8).setReg 9 f.r9).setReg 10 f.r10).clearRegs
    [1, 2, 3, 4, 5]

/-! ### Helper calls (41_jump.md R201) -/

/-- The register of the `k`-th argument: R1 to R5 (41_jump.md R201). -/
def argReg (k : Fin 5) : Reg := ⟨k.val + 1, by omega⟩

/-- The first of the needed arguments whose register holds no value (41_jump.md R201). -/
def missingArg (s : State) : List (Fin 5) → Option Reg
  | [] => none
  | k :: ks =>
    match s.reg (argReg k) with
    | .noValue => some (argReg k)
    | .value _ => missingArg s ks

/-- What the helper is given (41_jump.md R201). -/
def helperCall (s : State) : HelperCall :=
  ⟨[s.reg 1, s.reg 2, s.reg 3, s.reg 4, s.reg 5], s.mem, s.memSeed, s.memMap⟩

/-- Whether the arguments are as a row of a written-out helper asks, R1 first. -/
def argsFit : List (Option RegContent) → List RegContent → Bool
  | [], _ => true
  | none :: ps, as => argsFit ps as.tail
  | some c :: ps, as => as.head? == some c && argsFit ps as.tail

/-- The outcomes of a written-out helper: those of the first row that fits (log 9). -/
def tableOutcomes (otherwise : HelperOutcomes) (args : List RegContent) :
    List HelperCase → HelperOutcomes
  | [] => otherwise
  | r :: rs => if argsFit r.args args then r.outcomes else tableOutcomes otherwise args rs

/-- The outcome number `k` of a written-out set, counting round and round. -/
def pickOutcome (o : HelperOutcomes) (k : Nat) : HelperOutcome :=
  (o.first :: o.others)[k % (o.others.length + 1)]'(Nat.mod_lt _ (Nat.succ_pos _))

/-- The outcome number `k` of a helper on a call. Its set of outcomes (41_jump.md R201) is that of all
numbers. -/
def helperOutcome (h : Helper) (call : HelperCall) (k : Nat) : HelperOutcome :=
  match h with
  | .platform name => Config.helperOutcome name call k
  | .table rows otherwise => pickOutcome (tableOutcomes otherwise call.args rows) k

/-- The platform's choice at this call: "the call step picks any outcome in the set" (41_jump.md R201).
It is the next of the queue, or, where the queue is empty, free (log 9). -/
def helperPick (s : State) : Nat :=
  match s.answers with
  | k :: _ => k
  | [] => Config.helperPick s.draws

/-- The bytes a helper writes, in order. -/
def Memory.setCells : Memory → List (Word × Byte) → Memory
  | m, [] => m
  | m, (a, b) :: ws => Memory.setCells (Memory.set m a.toNat b) ws

/-- A helper's `Return`: R0 is the result, R1 to R5 hold no value, memory and MEMMAP are the helper's,
and the program goes on with the next instruction (41_jump.md R200, R201). -/
def State.afterHelper (s : State) (r : HelperReturn) : State :=
  let s' := { s with mem := s.mem.setCells r.writes, memMap := r.memMap.getD s.memMap }
  ((s'.writeReg 0 r.r0).clearRegs [1, 2, 3, 4, 5]).advance 1

/-- The choice of this call is used up. -/
def State.nextDraw (s : State) : State :=
  { s with answers := s.answers.tail, draws := s.draws + 1 }

/-- Run a helper the platform offers, by the contract of 41_jump.md R201: a needed argument that holds
no value faults, else the call has one of the helper's own outcomes on it. -/
def runHelper (entry : HelperEntry) (s : State) : Result :=
  match missingArg s entry.needs with
  | some r => raise (.uninitRegister s.pc r)
  | none =>
    match helperOutcome entry.helper (helperCall s) (helperPick s) with
    | .returns r => .next (s.nextDraw.afterHelper r)
    | .faults f => raise (faultOfHelper s.pc f)
    | .leaves => .refused .helperDoesNotReturn

/-- The helper an id names (41_jump.md R200, R204). -/
def findHelper (table : List HelperEntry) (id : BitVec 32) : Option HelperEntry :=
  table.find? fun h => h.id == id

end Sys2Proof.Machine
end

