-- ==== Sys2Proof/Machine/Operands.lean ====
section
/-! DEFINITION. The operand forms: the source operand of the arithmetic and jump classes, the
effective address, the immediates, the shift counts, and the arithmetic the spec defines on values
(00_scope.md R10; 40_arithmetic.md R120 to R126; 20_memory.md R52). -/

namespace Sys2Proof.Machine

/-- `S64`: `x[src]` with X, `sext_64(imm)` with K (40_arithmetic.md R120). -/
def source64 (s : State) : Src → Except Fault Word
  | .imm v => .ok (v.signExtend 64)
  | .reg r => readReg s r

/-- `S32`: `w[src]` with X, `imm` with K (40_arithmetic.md R121). -/
def source32 (s : State) : Src → Except Fault Word32
  | .imm v => .ok v
  | .reg r => readReg32 s r

/-- `EA = trunc_64(x[base] + sext_64(off))` (20_memory.md R52). -/
def effectiveAddress (base : Word) (off : BitVec 16) : Word := base + off.signExtend 64

/-! ### Division and modulo (40_arithmetic.md R124, R125) -/

/-- `udiv_N` (40_arithmetic.md R124). -/
def udivN {w : Nat} (a b : BitVec w) : BitVec w :=
  if b = 0 then 0 else BitVec.ofNat w (a.toNat / b.toNat)

/-- `umod_N` (40_arithmetic.md R124). -/
def umodN {w : Nat} (a b : BitVec w) : BitVec w :=
  if b = 0 then a else BitVec.ofNat w (a.toNat % b.toNat)

/-- `sdiv_N`: the quotient rounded toward zero, wrapped to the width, so `MIN_N s/ -1 = MIN_N`
(40_arithmetic.md R125). -/
def sdivN {w : Nat} (a b : BitVec w) : BitVec w :=
  if b = 0 then 0 else BitVec.ofInt w (a.toInt.tdiv b.toInt)

/-- `smod_N`: the remainder has the sign of the dividend, so `MIN_N s% -1 = 0`
(40_arithmetic.md R125). -/
def smodN {w : Nat} (a b : BitVec w) : BitVec w :=
  if b = 0 then a else BitVec.ofInt w (a.toInt.tmod b.toInt)

/-! ### Shifts (40_arithmetic.md R122): the count is the source operand and the mask -/

/-- `dst << (src & mask)`. -/
def lshMasked {w : Nat} (mask a b : BitVec w) : BitVec w := a <<< (b &&& mask).toNat

/-- `dst >> (src & mask)`, zeros entering at the top. -/
def rshMasked {w : Nat} (mask a b : BitVec w) : BitVec w := a >>> (b &&& mask).toNat

/-- `dst >>s (src & mask)`, copies of the sign bit entering at the top. -/
def arshMasked {w : Nat} (mask a b : BitVec w) : BitVec w := a.sshiftRight (b &&& mask).toNat

/-! ### Byte swaps (00_scope.md R10; 40_arithmetic.md R170) -/

/-- `bswap_N`: the `N / 8` bytes of the value in reverse order (00_scope.md R10). -/
def bswapN {w : Nat} (v : BitVec w) : BitVec w :=
  BitVec.ofNat w (leValue (leBytes (w / 8) v.toNat).reverse)

/-- TO_LE: a swap on a big-endian host, no change of order on a little-endian one
(40_arithmetic.md R170). -/
def toLittle (e : Endian) {w : Nat} (v : BitVec w) : BitVec w :=
  match e with
  | .le => v
  | .be => bswapN v

/-- TO_BE: a swap on a little-endian host, no change of order on a big-endian one
(40_arithmetic.md R170). -/
def toBig (e : Endian) {w : Nat} (v : BitVec w) : BitVec w :=
  match e with
  | .le => bswapN v
  | .be => v

end Sys2Proof.Machine
end

