-- ==== Sys2Proof/Machine/Atomic.lean ====
section
/-! DEFINITION. The atomic instructions (43_atomic.md). -/

namespace Sys2Proof.Machine

/-- The steps of an atomic instruction of `w` bits that replaces the old value by `f old operand`
(43_atomic.md R251): every register read and every check comes before any effect; the read and
the write are one step; `finish` then writes the result register, if the form has one. -/
def atomicUpdate (w : Nat) (f : BitVec w → BitVec w → BitVec w) (finish : BitVec w → State → State)
    (base : Reg) (off : BitVec 16) (src : Reg) (s : State) : Result :=
  orFault (readReg s base) fun b =>
  orFault (readReg s src) fun v =>
  orFault (atomicCheck s (effectiveAddress b off) (w / 8)) fun _ =>
  let a := (effectiveAddress b off).toNat
  let old := s.loadValue a w
  .next ((finish old (s.storeValue a (f old (v.setWidth w)))).advance 1)

/-- A form without FETCH writes no register (43_atomic.md R252). -/
def atomicPlain (w : Nat) (f : BitVec w → BitVec w → BitVec w) (base : Reg) (off : BitVec 16)
    (src : Reg) (s : State) : Result :=
  atomicUpdate w f (fun _ t => t) base off src s

/-- A FETCH form and XCHG overwrite `src` with the old value, zero-extended (43_atomic.md R252). -/
def atomicFetch (w : Nat) (f : BitVec w → BitVec w → BitVec w) (base : Reg) (off : BitVec 16)
    (src : Reg) (s : State) : Result :=
  atomicUpdate w f (fun old t => t.writeReg src (old.setWidth 64)) base off src s

/-- CMPXCHG of `w` bits (43_atomic.md R251, R253, R272, R273): the old value is compared with R0 and
replaced by `src` where they match; either way R0 receives the old value, zero-extended. -/
def atomicCompare (w : Nat) (base : Reg) (off : BitVec 16) (src : Reg) (s : State) : Result :=
  orFault (readReg s base) fun b =>
  orFault (readReg s src) fun v =>
  orFault (readReg s 0) fun r0 =>
  orFault (atomicCheck s (effectiveAddress b off) (w / 8)) fun _ =>
  let a := (effectiveAddress b off).toNat
  let old := s.loadValue a w
  let stored := if old = r0.setWidth w then s.storeValue a (v.setWidth w) else s
  .next ((stored.writeReg 0 (old.setWidth 64)).advance 1)

/-- `atomic_add32` (43_atomic.md R254). -/
def execAtomicAdd32 (base : Reg) (off : BitVec 16) (src : Reg) (s : State) : Result :=
  atomicPlain 32 (fun old v => old + v) base off src s

/-- `atomic_add64` (43_atomic.md R255). -/
def execAtomicAdd64 (base : Reg) (off : BitVec 16) (src : Reg) (s : State) : Result :=
  atomicPlain 64 (fun old v => old + v) base off src s

/-- `atomic_or32` (43_atomic.md R256). -/
def execAtomicOr32 (base : Reg) (off : BitVec 16) (src : Reg) (s : State) : Result :=
  atomicPlain 32 (fun old v => old ||| v) base off src s

/-- `atomic_or64` (43_atomic.md R257). -/
def execAtomicOr64 (base : Reg) (off : BitVec 16) (src : Reg) (s : State) : Result :=
  atomicPlain 64 (fun old v => old ||| v) base off src s

/-- `atomic_and32` (43_atomic.md R258). -/
def execAtomicAnd32 (base : Reg) (off : BitVec 16) (src : Reg) (s : State) : Result :=
  atomicPlain 32 (fun old v => old &&& v) base off src s

/-- `atomic_and64` (43_atomic.md R259). -/
def execAtomicAnd64 (base : Reg) (off : BitVec 16) (src : Reg) (s : State) : Result :=
  atomicPlain 64 (fun old v => old &&& v) base off src s

/-- `atomic_xor32` (43_atomic.md R260). -/
def execAtomicXor32 (base : Reg) (off : BitVec 16) (src : Reg) (s : State) : Result :=
  atomicPlain 32 (fun old v => old ^^^ v) base off src s

/-- `atomic_xor64` (43_atomic.md R261). -/
def execAtomicXor64 (base : Reg) (off : BitVec 16) (src : Reg) (s : State) : Result :=
  atomicPlain 64 (fun old v => old ^^^ v) base off src s

/-- `atomic_fetch_add32` (43_atomic.md R262). -/
def execAtomicFetchAdd32 (base : Reg) (off : BitVec 16) (src : Reg) (s : State) : Result :=
  atomicFetch 32 (fun old v => old + v) base off src s

/-- `atomic_fetch_add64` (43_atomic.md R263). -/
def execAtomicFetchAdd64 (base : Reg) (off : BitVec 16) (src : Reg) (s : State) : Result :=
  atomicFetch 64 (fun old v => old + v) base off src s

/-- `atomic_fetch_or32` (43_atomic.md R264). -/
def execAtomicFetchOr32 (base : Reg) (off : BitVec 16) (src : Reg) (s : State) : Result :=
  atomicFetch 32 (fun old v => old ||| v) base off src s

/-- `atomic_fetch_or64` (43_atomic.md R265). -/
def execAtomicFetchOr64 (base : Reg) (off : BitVec 16) (src : Reg) (s : State) : Result :=
  atomicFetch 64 (fun old v => old ||| v) base off src s

/-- `atomic_fetch_and32` (43_atomic.md R266). -/
def execAtomicFetchAnd32 (base : Reg) (off : BitVec 16) (src : Reg) (s : State) : Result :=
  atomicFetch 32 (fun old v => old &&& v) base off src s

/-- `atomic_fetch_and64` (43_atomic.md R267). -/
def execAtomicFetchAnd64 (base : Reg) (off : BitVec 16) (src : Reg) (s : State) : Result :=
  atomicFetch 64 (fun old v => old &&& v) base off src s

/-- `atomic_fetch_xor32` (43_atomic.md R268). -/
def execAtomicFetchXor32 (base : Reg) (off : BitVec 16) (src : Reg) (s : State) : Result :=
  atomicFetch 32 (fun old v => old ^^^ v) base off src s

/-- `atomic_fetch_xor64` (43_atomic.md R269). -/
def execAtomicFetchXor64 (base : Reg) (off : BitVec 16) (src : Reg) (s : State) : Result :=
  atomicFetch 64 (fun old v => old ^^^ v) base off src s

/-- `atomic_xchg32` (43_atomic.md R270). -/
def execAtomicXchg32 (base : Reg) (off : BitVec 16) (src : Reg) (s : State) : Result :=
  atomicFetch 32 (fun _ v => v) base off src s

/-- `atomic_xchg64` (43_atomic.md R271). -/
def execAtomicXchg64 (base : Reg) (off : BitVec 16) (src : Reg) (s : State) : Result :=
  atomicFetch 64 (fun _ v => v) base off src s

/-- `atomic_cmpxchg32` (43_atomic.md R272). -/
def execAtomicCmpxchg32 (base : Reg) (off : BitVec 16) (src : Reg) (s : State) : Result :=
  atomicCompare 32 base off src s

/-- `atomic_cmpxchg64` (43_atomic.md R273). -/
def execAtomicCmpxchg64 (base : Reg) (off : BitVec 16) (src : Reg) (s : State) : Result :=
  atomicCompare 64 base off src s

end Sys2Proof.Machine
end

