-- ==== Sys2Proof/Machine/Call.lean ====
section
/-! DEFINITION. CALL in its three kinds and EXIT (41_jump.md R199 to R206). -/

namespace Sys2Proof.Machine

/-- `call_helper` (41_jump.md R200). An id not in HELPERS faults; the helper runs by the contract of R201. -/
def execCallHelper (imm : BitVec 32) (s : State) : Result :=
  match findHelper s.params.helpers imm with
  | none => raise (.unknownHelper s.pc imm)
  | some h => runHelper h s

/-- `call_local` (41_jump.md R202). Every check comes before the push. -/
def execCallLocal (imm : BitVec 32) (s : State) : Result :=
  if s.params.maxCallDepth < s.callStack.length + 2 then raise (.callDepth s.pc)
  else orFault (jumpTarget s (relativeTarget s imm.toInt)) fun t => .next (s.enterFunction t)

/-- `call_btf` (41_jump.md R204). An id not in HELPERS_BTF is refused by the fault `Unsupported`. -/
def execCallBtf (imm : BitVec 32) (s : State) : Result :=
  match findHelper s.params.helpersBtf imm with
  | none => raise (.unsupported s.pc .callByBtfId)
  | some h => runHelper h s

/-- `exit` (41_jump.md R205). With an empty call stack the run ends with the value of R0; else it
returns to the caller. -/
def execExit (s : State) : Result :=
  orFault (readReg s 0) fun v =>
  match s.callStack with
  | [] => .next { s with status := .exited v }
  | f :: rest => .next (s.leaveFunction f rest)

end Sys2Proof.Machine
end

