-- ==== Sys2Proof/Machine/Imm64.lean ====
section
/-! DEFINITION. The 64-bit immediate instructions, the only wide ones (44_immediate64.md). -/

namespace Sys2Proof.Machine

/-- Write the value a platform function gives and advance over both slots; where the function is
undefined at its argument the instruction faults (44_immediate64.md R280, R282 to R287). -/
def loadPlatform (dst : Reg) (value : Option Word) (what : Feature) (s : State) : Result :=
  match value with
  | none => raise (.unsupported s.pc what)
  | some v => .next ((s.writeReg dst v).advance 2)

/-- `trunc_64(MAP_VAL(map) + sext_64(next_imm))`, where the map and its value are defined
(44_immediate64.md R283, R287). -/
def mapValueAddress (p : Params) (map : Option Word) (next : BitVec 32) : Option Word :=
  match map with
  | none => none
  | some m => (p.mapVal.lookup m).map fun v => v + next.signExtend 64

/-- `lddw` (44_immediate64.md R281). Both halves are taken as raw bits. -/
def execLddw (dst : Reg) (imm : BitVec 32) (next : BitVec 32) (s : State) : Result :=
  .next ((s.writeReg dst (next ++ imm)).advance 2)

/-- `ld_map_fd` (44_immediate64.md R282). -/
def execLdMapFd (dst : Reg) (imm : BitVec 32) (s : State) : Result :=
  loadPlatform dst (s.params.mapByFd.lookup imm) .mapByFd s

/-- `ld_map_val_fd` (44_immediate64.md R283). -/
def execLdMapValFd (dst : Reg) (imm : BitVec 32) (next : BitVec 32) (s : State) : Result :=
  loadPlatform dst (mapValueAddress s.params (s.params.mapByFd.lookup imm) next) .mapVal s

/-- `ld_var_addr` (44_immediate64.md R284). -/
def execLdVarAddr (dst : Reg) (imm : BitVec 32) (s : State) : Result :=
  loadPlatform dst (s.params.varAddr.lookup imm) .varAddr s

/-- `ld_code_addr` (44_immediate64.md R285). -/
def execLdCodeAddr (dst : Reg) (imm : BitVec 32) (s : State) : Result :=
  loadPlatform dst (s.params.codeAddr.lookup (s.pc, imm.toInt)) .codeAddr s

/-- `ld_map_idx` (44_immediate64.md R286). -/
def execLdMapIdx (dst : Reg) (imm : BitVec 32) (s : State) : Result :=
  loadPlatform dst (s.params.mapByIdx.lookup imm) .mapByIdx s

/-- `ld_map_val_idx` (44_immediate64.md R287). -/
def execLdMapValIdx (dst : Reg) (imm : BitVec 32) (next : BitVec 32) (s : State) : Result :=
  loadPlatform dst (mapValueAddress s.params (s.params.mapByIdx.lookup imm) next) .mapVal s

end Sys2Proof.Machine
end

