-- ==== Sys2Proof/Machine/Flags.lean ====
section
/-! DEFINITION. The machine has no flags and no condition codes (10_state.md R29): every conditional
jump compares two operands itself. This file holds those comparisons, at any width
(41_jump.md R180, R185 to R214). -/

namespace Sys2Proof.Machine

/-- JEQ (41_jump.md R185, R186). -/
def condEq {w : Nat} (a b : BitVec w) : Bool := a == b

/-- JNE (41_jump.md R193, R194). -/
def condNe {w : Nat} (a b : BitVec w) : Bool := a != b

/-- JSET: the bitwise and is not zero (41_jump.md R191, R192). -/
def condSet {w : Nat} (a b : BitVec w) : Bool := (a &&& b) != 0

/-- JGT, unsigned (41_jump.md R187, R188). -/
def condGt {w : Nat} (a b : BitVec w) : Bool := decide (b.toNat < a.toNat)

/-- JGE, unsigned (41_jump.md R189, R190). -/
def condGe {w : Nat} (a b : BitVec w) : Bool := decide (b.toNat ≤ a.toNat)

/-- JLT, unsigned (41_jump.md R207, R208). -/
def condLt {w : Nat} (a b : BitVec w) : Bool := decide (a.toNat < b.toNat)

/-- JLE, unsigned (41_jump.md R209, R210). -/
def condLe {w : Nat} (a b : BitVec w) : Bool := decide (a.toNat ≤ b.toNat)

/-- JSGT, signed (41_jump.md R195, R196). -/
def condSgt {w : Nat} (a b : BitVec w) : Bool := decide (b.toInt < a.toInt)

/-- JSGE, signed (41_jump.md R197, R198). -/
def condSge {w : Nat} (a b : BitVec w) : Bool := decide (b.toInt ≤ a.toInt)

/-- JSLT, signed (41_jump.md R211, R212). -/
def condSlt {w : Nat} (a b : BitVec w) : Bool := decide (a.toInt < b.toInt)

/-- JSLE, signed (41_jump.md R213, R214). -/
def condSle {w : Nat} (a b : BitVec w) : Bool := decide (a.toInt ≤ b.toInt)

end Sys2Proof.Machine
end

