-- ==== Sys2Proof/Machine/Jump.lean ====
section
/-! DEFINITION. The jumps of classes JMP and JMP32 (41_jump.md R180 to R198, R207 to R214). -/

namespace Sys2Proof.Machine

/-- A conditional jump of class JMP (41_jump.md R180, R182): both operands are read, taken or not;
the distance is the 16-bit offset. -/
def jump64 (cond : Word → Word → Bool) (dst : Reg) (src : Src) (off : BitVec 16) (s : State) :
    Result :=
  orFault (readReg s dst) fun a =>
  orFault (source64 s src) fun b =>
  if cond a b then jumpBy s off.toInt else .next (s.advance 1)

/-- A conditional jump of class JMP32 (41_jump.md R180, R182): it compares the low 32 bits. -/
def jump32 (cond : Word32 → Word32 → Bool) (dst : Reg) (src : Src) (off : BitVec 16) (s : State) :
    Result :=
  orFault (readReg32 s dst) fun a =>
  orFault (source32 s src) fun b =>
  if cond a b then jumpBy s off.toInt else .next (s.advance 1)

/-- `ja` (41_jump.md R183). -/
def execJa (off : BitVec 16) (s : State) : Result :=
  jumpBy s off.toInt

/-- `ja32` (41_jump.md R184). -/
def execJa32 (imm : BitVec 32) (s : State) : Result :=
  jumpBy s imm.toInt

/-- `jeq64` (41_jump.md R185). -/
def execJeq64 (dst : Reg) (src : Src) (off : BitVec 16) (s : State) : Result :=
  jump64 condEq dst src off s

/-- `jeq32` (41_jump.md R186). -/
def execJeq32 (dst : Reg) (src : Src) (off : BitVec 16) (s : State) : Result :=
  jump32 condEq dst src off s

/-- `jgt64` (41_jump.md R187). -/
def execJgt64 (dst : Reg) (src : Src) (off : BitVec 16) (s : State) : Result :=
  jump64 condGt dst src off s

/-- `jgt32` (41_jump.md R188). -/
def execJgt32 (dst : Reg) (src : Src) (off : BitVec 16) (s : State) : Result :=
  jump32 condGt dst src off s

/-- `jge64` (41_jump.md R189). -/
def execJge64 (dst : Reg) (src : Src) (off : BitVec 16) (s : State) : Result :=
  jump64 condGe dst src off s

/-- `jge32` (41_jump.md R190). -/
def execJge32 (dst : Reg) (src : Src) (off : BitVec 16) (s : State) : Result :=
  jump32 condGe dst src off s

/-- `jset64` (41_jump.md R191). -/
def execJset64 (dst : Reg) (src : Src) (off : BitVec 16) (s : State) : Result :=
  jump64 condSet dst src off s

/-- `jset32` (41_jump.md R192). -/
def execJset32 (dst : Reg) (src : Src) (off : BitVec 16) (s : State) : Result :=
  jump32 condSet dst src off s

/-- `jne64` (41_jump.md R193). -/
def execJne64 (dst : Reg) (src : Src) (off : BitVec 16) (s : State) : Result :=
  jump64 condNe dst src off s

/-- `jne32` (41_jump.md R194). -/
def execJne32 (dst : Reg) (src : Src) (off : BitVec 16) (s : State) : Result :=
  jump32 condNe dst src off s

/-- `jsgt64` (41_jump.md R195). -/
def execJsgt64 (dst : Reg) (src : Src) (off : BitVec 16) (s : State) : Result :=
  jump64 condSgt dst src off s

/-- `jsgt32` (41_jump.md R196). -/
def execJsgt32 (dst : Reg) (src : Src) (off : BitVec 16) (s : State) : Result :=
  jump32 condSgt dst src off s

/-- `jsge64` (41_jump.md R197). -/
def execJsge64 (dst : Reg) (src : Src) (off : BitVec 16) (s : State) : Result :=
  jump64 condSge dst src off s

/-- `jsge32` (41_jump.md R198). -/
def execJsge32 (dst : Reg) (src : Src) (off : BitVec 16) (s : State) : Result :=
  jump32 condSge dst src off s

/-- `jlt64` (41_jump.md R207). -/
def execJlt64 (dst : Reg) (src : Src) (off : BitVec 16) (s : State) : Result :=
  jump64 condLt dst src off s

/-- `jlt32` (41_jump.md R208). -/
def execJlt32 (dst : Reg) (src : Src) (off : BitVec 16) (s : State) : Result :=
  jump32 condLt dst src off s

/-- `jle64` (41_jump.md R209). -/
def execJle64 (dst : Reg) (src : Src) (off : BitVec 16) (s : State) : Result :=
  jump64 condLe dst src off s

/-- `jle32` (41_jump.md R210). -/
def execJle32 (dst : Reg) (src : Src) (off : BitVec 16) (s : State) : Result :=
  jump32 condLe dst src off s

/-- `jslt64` (41_jump.md R211). -/
def execJslt64 (dst : Reg) (src : Src) (off : BitVec 16) (s : State) : Result :=
  jump64 condSlt dst src off s

/-- `jslt32` (41_jump.md R212). -/
def execJslt32 (dst : Reg) (src : Src) (off : BitVec 16) (s : State) : Result :=
  jump32 condSlt dst src off s

/-- `jsle64` (41_jump.md R213). -/
def execJsle64 (dst : Reg) (src : Src) (off : BitVec 16) (s : State) : Result :=
  jump64 condSle dst src off s

/-- `jsle32` (41_jump.md R214). -/
def execJsle32 (dst : Reg) (src : Src) (off : BitVec 16) (s : State) : Result :=
  jump32 condSle dst src off s

end Sys2Proof.Machine
end

