-- ==== Sys2Proof/Machine/LoadStore.lean ====
section
/-! DEFINITION. The regular and the sign-extending loads and the stores (42_load_store.md). -/

namespace Sys2Proof.Machine

/-- The steps of a load of `w` bits (42_load_store.md R222): the address is formed from the old base,
then the register receives the extended value. -/
def load (w : Nat) (extend : BitVec w → Word) (dst base : Reg) (off : BitVec 16) (s : State) :
    Result :=
  orFault (readReg s base) fun b =>
  orFault (memRead s (effectiveAddress b off) w) fun v =>
  .next ((s.writeReg dst (extend v)).advance 1)

/-- The steps of a store of the `w`-bit value `v` once both operands are read
(42_load_store.md R223). -/
def store {w : Nat} (b : Word) (off : BitVec 16) (v : BitVec w) (s : State) : Result :=
  orFault (memWrite s (effectiveAddress b off) v) fun t => .next (t.advance 1)

/-- A store of an immediate (42_load_store.md R223): the low `w` bits of `sext_64(imm)`. -/
def storeImm (w : Nat) (base : Reg) (off : BitVec 16) (imm : BitVec 32) (s : State) : Result :=
  orFault (readReg s base) fun b =>
  store b off ((imm.signExtend 64).setWidth w) s

/-- A store of a register (42_load_store.md R223): the low `w` bits of the source, read after the
base. -/
def storeReg (w : Nat) (base : Reg) (off : BitVec 16) (src : Reg) (s : State) : Result :=
  orFault (readReg s base) fun b =>
  orFault (readReg s src) fun v =>
  store b off (v.setWidth w) s

/-- `ldxw` (42_load_store.md R224). -/
def execLdxw (dst : Reg) (base : Reg) (off : BitVec 16) (s : State) : Result :=
  load 32 (fun v => v.setWidth 64) dst base off s

/-- `ldxh` (42_load_store.md R225). -/
def execLdxh (dst : Reg) (base : Reg) (off : BitVec 16) (s : State) : Result :=
  load 16 (fun v => v.setWidth 64) dst base off s

/-- `ldxb` (42_load_store.md R226). -/
def execLdxb (dst : Reg) (base : Reg) (off : BitVec 16) (s : State) : Result :=
  load 8 (fun v => v.setWidth 64) dst base off s

/-- `ldxdw` (42_load_store.md R227). -/
def execLdxdw (dst : Reg) (base : Reg) (off : BitVec 16) (s : State) : Result :=
  load 64 (fun v => v.setWidth 64) dst base off s

/-- `ldxsw` (42_load_store.md R240). -/
def execLdxsw (dst : Reg) (base : Reg) (off : BitVec 16) (s : State) : Result :=
  load 32 (fun v => v.signExtend 64) dst base off s

/-- `ldxsh` (42_load_store.md R241). -/
def execLdxsh (dst : Reg) (base : Reg) (off : BitVec 16) (s : State) : Result :=
  load 16 (fun v => v.signExtend 64) dst base off s

/-- `ldxsb` (42_load_store.md R242). -/
def execLdxsb (dst : Reg) (base : Reg) (off : BitVec 16) (s : State) : Result :=
  load 8 (fun v => v.signExtend 64) dst base off s

/-- `stw` (42_load_store.md R228). -/
def execStw (base : Reg) (off : BitVec 16) (imm : BitVec 32) (s : State) : Result :=
  storeImm 32 base off imm s

/-- `sth` (42_load_store.md R229). -/
def execSth (base : Reg) (off : BitVec 16) (imm : BitVec 32) (s : State) : Result :=
  storeImm 16 base off imm s

/-- `stb` (42_load_store.md R230). -/
def execStb (base : Reg) (off : BitVec 16) (imm : BitVec 32) (s : State) : Result :=
  storeImm 8 base off imm s

/-- `stdw` (42_load_store.md R231). -/
def execStdw (base : Reg) (off : BitVec 16) (imm : BitVec 32) (s : State) : Result :=
  storeImm 64 base off imm s

/-- `stxw` (42_load_store.md R232). -/
def execStxw (base : Reg) (off : BitVec 16) (src : Reg) (s : State) : Result :=
  storeReg 32 base off src s

/-- `stxh` (42_load_store.md R233). -/
def execStxh (base : Reg) (off : BitVec 16) (src : Reg) (s : State) : Result :=
  storeReg 16 base off src s

/-- `stxb` (42_load_store.md R234). -/
def execStxb (base : Reg) (off : BitVec 16) (src : Reg) (s : State) : Result :=
  storeReg 8 base off src s

/-- `stxdw` (42_load_store.md R235). -/
def execStxdw (base : Reg) (off : BitVec 16) (src : Reg) (s : State) : Result :=
  storeReg 64 base off src s

end Sys2Proof.Machine
end

