-- ==== Sys2Proof/Machine/Arith.lean ====
section
/-! DEFINITION. The arithmetic instructions of classes ALU64 and ALU but for the byte swaps
(40_arithmetic.md R120 to R169). -/

namespace Sys2Proof.Machine

/-- Every ALU64 instruction that reads its destination and a source (40_arithmetic.md R120, R126):
both operands are read, `dst` first (60_exceptions.md R311), then the result is written. -/
def alu64 (f : Word → Word → Word) (dst : Reg) (src : Src) (s : State) : Result :=
  orFault (readReg s dst) fun a =>
  orFault (source64 s src) fun b =>
  .next ((s.writeReg dst (f a b)).advance 1)

/-- Every ALU instruction that reads its destination and a source (40_arithmetic.md R121, R126): the
upper 32 bits of the operands are ignored and those of the result are zero. -/
def alu32 (f : Word32 → Word32 → Word32) (dst : Reg) (src : Src) (s : State) : Result :=
  orFault (readReg32 s dst) fun a =>
  orFault (source32 s src) fun b =>
  .next ((s.writeReg32 dst (f a b)).advance 1)

/-- An instruction that replaces a register by a function of its own value (40_arithmetic.md R152,
R170). -/
def aluUnary (f : Word → Word) (dst : Reg) (s : State) : Result :=
  orFault (readReg s dst) fun a =>
  .next ((s.writeReg dst (f a)).advance 1)

/-- A move from a register that extends the value (40_arithmetic.md R160): the old destination is not
read (R126). -/
def moveExtended (f : Word → Word) (dst src : Reg) (s : State) : Result :=
  orFault (readReg s src) fun v =>
  .next ((s.writeReg dst (f v)).advance 1)

/-- `add64` (40_arithmetic.md R130). -/
def execAdd64 (dst : Reg) (src : Src) (s : State) : Result :=
  alu64 (fun a b => a + b) dst src s

/-- `add32` (40_arithmetic.md R131). -/
def execAdd32 (dst : Reg) (src : Src) (s : State) : Result :=
  alu32 (fun a b => a + b) dst src s

/-- `sub64` (40_arithmetic.md R132). -/
def execSub64 (dst : Reg) (src : Src) (s : State) : Result :=
  alu64 (fun a b => a - b) dst src s

/-- `sub32` (40_arithmetic.md R133). -/
def execSub32 (dst : Reg) (src : Src) (s : State) : Result :=
  alu32 (fun a b => a - b) dst src s

/-- `mul64` (40_arithmetic.md R134). -/
def execMul64 (dst : Reg) (src : Src) (s : State) : Result :=
  alu64 (fun a b => a * b) dst src s

/-- `mul32` (40_arithmetic.md R135). -/
def execMul32 (dst : Reg) (src : Src) (s : State) : Result :=
  alu32 (fun a b => a * b) dst src s

/-- `div64` (40_arithmetic.md R136). -/
def execDiv64 (dst : Reg) (src : Src) (s : State) : Result :=
  alu64 udivN dst src s

/-- `div32` (40_arithmetic.md R137). -/
def execDiv32 (dst : Reg) (src : Src) (s : State) : Result :=
  alu32 udivN dst src s

/-- `sdiv64` (40_arithmetic.md R138). -/
def execSdiv64 (dst : Reg) (src : Src) (s : State) : Result :=
  alu64 sdivN dst src s

/-- `sdiv32` (40_arithmetic.md R139). -/
def execSdiv32 (dst : Reg) (src : Src) (s : State) : Result :=
  alu32 sdivN dst src s

/-- `or64` (40_arithmetic.md R140). -/
def execOr64 (dst : Reg) (src : Src) (s : State) : Result :=
  alu64 (fun a b => a ||| b) dst src s

/-- `or32` (40_arithmetic.md R141). -/
def execOr32 (dst : Reg) (src : Src) (s : State) : Result :=
  alu32 (fun a b => a ||| b) dst src s

/-- `and64` (40_arithmetic.md R142). -/
def execAnd64 (dst : Reg) (src : Src) (s : State) : Result :=
  alu64 (fun a b => a &&& b) dst src s

/-- `and32` (40_arithmetic.md R143). -/
def execAnd32 (dst : Reg) (src : Src) (s : State) : Result :=
  alu32 (fun a b => a &&& b) dst src s

/-- `lsh64` (40_arithmetic.md R144). -/
def execLsh64 (dst : Reg) (src : Src) (s : State) : Result :=
  alu64 (lshMasked s.params.shiftMask64) dst src s

/-- `lsh32` (40_arithmetic.md R145). -/
def execLsh32 (dst : Reg) (src : Src) (s : State) : Result :=
  alu32 (lshMasked s.params.shiftMask32) dst src s

/-- `rsh64` (40_arithmetic.md R146). -/
def execRsh64 (dst : Reg) (src : Src) (s : State) : Result :=
  alu64 (rshMasked s.params.shiftMask64) dst src s

/-- `rsh32` (40_arithmetic.md R147). -/
def execRsh32 (dst : Reg) (src : Src) (s : State) : Result :=
  alu32 (rshMasked s.params.shiftMask32) dst src s

/-- `mod64` (40_arithmetic.md R154). -/
def execMod64 (dst : Reg) (src : Src) (s : State) : Result :=
  alu64 umodN dst src s

/-- `mod32` (40_arithmetic.md R155). -/
def execMod32 (dst : Reg) (src : Src) (s : State) : Result :=
  alu32 umodN dst src s

/-- `smod64` (40_arithmetic.md R156). -/
def execSmod64 (dst : Reg) (src : Src) (s : State) : Result :=
  alu64 smodN dst src s

/-- `smod32` (40_arithmetic.md R157). -/
def execSmod32 (dst : Reg) (src : Src) (s : State) : Result :=
  alu32 smodN dst src s

/-- `xor64` (40_arithmetic.md R158). -/
def execXor64 (dst : Reg) (src : Src) (s : State) : Result :=
  alu64 (fun a b => a ^^^ b) dst src s

/-- `xor32` (40_arithmetic.md R159). -/
def execXor32 (dst : Reg) (src : Src) (s : State) : Result :=
  alu32 (fun a b => a ^^^ b) dst src s

/-- `mov64` (40_arithmetic.md R161). The old destination is not read. -/
def execMov64 (dst : Reg) (src : Src) (s : State) : Result :=
  orFault (source64 s src) fun v =>
  .next ((s.writeReg dst v).advance 1)

/-- `mov32` (40_arithmetic.md R162). The old destination is not read. -/
def execMov32 (dst : Reg) (src : Src) (s : State) : Result :=
  orFault (source32 s src) fun v =>
  .next ((s.writeReg32 dst v).advance 1)

/-- `arsh64` (40_arithmetic.md R168). -/
def execArsh64 (dst : Reg) (src : Src) (s : State) : Result :=
  alu64 (arshMasked s.params.shiftMask64) dst src s

/-- `arsh32` (40_arithmetic.md R169). -/
def execArsh32 (dst : Reg) (src : Src) (s : State) : Result :=
  alu32 (arshMasked s.params.shiftMask32) dst src s

/-- `neg64` (40_arithmetic.md R152). -/
def execNeg64 (dst : Reg) (s : State) : Result :=
  aluUnary (fun a => 0 - a) dst s

/-- `neg32` (40_arithmetic.md R153). -/
def execNeg32 (dst : Reg) (s : State) : Result :=
  aluUnary (fun a => (0 - a.setWidth 32).setWidth 64) dst s

/-- `movsx8_64` (40_arithmetic.md R163). -/
def execMovsx8_64 (dst : Reg) (src : Reg) (s : State) : Result :=
  moveExtended (fun v => (v.setWidth 8).signExtend 64) dst src s

/-- `movsx16_64` (40_arithmetic.md R164). -/
def execMovsx16_64 (dst : Reg) (src : Reg) (s : State) : Result :=
  moveExtended (fun v => (v.setWidth 16).signExtend 64) dst src s

/-- `movsx32_64` (40_arithmetic.md R165). -/
def execMovsx32_64 (dst : Reg) (src : Reg) (s : State) : Result :=
  moveExtended (fun v => (v.setWidth 32).signExtend 64) dst src s

/-- `movsx8_32` (40_arithmetic.md R166). -/
def execMovsx8_32 (dst : Reg) (src : Reg) (s : State) : Result :=
  moveExtended (fun v => ((v.setWidth 8).signExtend 32).setWidth 64) dst src s

/-- `movsx16_32` (40_arithmetic.md R167). -/
def execMovsx16_32 (dst : Reg) (src : Reg) (s : State) : Result :=
  moveExtended (fun v => ((v.setWidth 16).signExtend 32).setWidth 64) dst src s

end Sys2Proof.Machine
end

