-- ==== Sys2Proof/Machine/Swap.lean ====
section
/-! DEFINITION. The byte swaps: code END of classes ALU and ALU64 (40_arithmetic.md R170 to R179). -/

namespace Sys2Proof.Machine

/-- A byte swap of width `w` (40_arithmetic.md R170): the low `w` bits of the destination are swapped
or kept, and the result is zero-extended to 64 bits. -/
def swapLow (w : Nat) (f : BitVec w → BitVec w) (dst : Reg) (s : State) : Result :=
  aluUnary (fun a => (f (a.setWidth w)).setWidth 64) dst s

/-- `le16` (40_arithmetic.md R171). -/
def execLe16 (dst : Reg) (s : State) : Result :=
  swapLow 16 (toLittle s.params.hostEndian) dst s

/-- `le32` (40_arithmetic.md R172). -/
def execLe32 (dst : Reg) (s : State) : Result :=
  swapLow 32 (toLittle s.params.hostEndian) dst s

/-- `le64` (40_arithmetic.md R173). -/
def execLe64 (dst : Reg) (s : State) : Result :=
  swapLow 64 (toLittle s.params.hostEndian) dst s

/-- `be16` (40_arithmetic.md R174). -/
def execBe16 (dst : Reg) (s : State) : Result :=
  swapLow 16 (toBig s.params.hostEndian) dst s

/-- `be32` (40_arithmetic.md R175). -/
def execBe32 (dst : Reg) (s : State) : Result :=
  swapLow 32 (toBig s.params.hostEndian) dst s

/-- `be64` (40_arithmetic.md R176). -/
def execBe64 (dst : Reg) (s : State) : Result :=
  swapLow 64 (toBig s.params.hostEndian) dst s

/-- `bswap16` (40_arithmetic.md R177). -/
def execBswap16 (dst : Reg) (s : State) : Result :=
  swapLow 16 bswapN dst s

/-- `bswap32` (40_arithmetic.md R178). -/
def execBswap32 (dst : Reg) (s : State) : Result :=
  swapLow 32 bswapN dst s

/-- `bswap64` (40_arithmetic.md R179). -/
def execBswap64 (dst : Reg) (s : State) : Result :=
  swapLow 64 bswapN dst s

end Sys2Proof.Machine
end

