-- ==== Sys2Proof/Machine/Dispatch.lean ====
section
/-! DEFINITION. The meaning of each instruction, one arm per constructor of Instr. -/

namespace Sys2Proof.Machine

/-- What an instruction does in a state (step 9 of 30_encoding.md R96). -/
def exec (i : Instr) (s : State) : Host.Outcome State Fault Refusal :=
  match i with
  | .add64 dst src => Sys2Proof.Machine.execAdd64 dst src s
  | .add32 dst src => Sys2Proof.Machine.execAdd32 dst src s
  | .sub64 dst src => Sys2Proof.Machine.execSub64 dst src s
  | .sub32 dst src => Sys2Proof.Machine.execSub32 dst src s
  | .mul64 dst src => Sys2Proof.Machine.execMul64 dst src s
  | .mul32 dst src => Sys2Proof.Machine.execMul32 dst src s
  | .div64 dst src => Sys2Proof.Machine.execDiv64 dst src s
  | .div32 dst src => Sys2Proof.Machine.execDiv32 dst src s
  | .sdiv64 dst src => Sys2Proof.Machine.execSdiv64 dst src s
  | .sdiv32 dst src => Sys2Proof.Machine.execSdiv32 dst src s
  | .or64 dst src => Sys2Proof.Machine.execOr64 dst src s
  | .or32 dst src => Sys2Proof.Machine.execOr32 dst src s
  | .and64 dst src => Sys2Proof.Machine.execAnd64 dst src s
  | .and32 dst src => Sys2Proof.Machine.execAnd32 dst src s
  | .lsh64 dst src => Sys2Proof.Machine.execLsh64 dst src s
  | .lsh32 dst src => Sys2Proof.Machine.execLsh32 dst src s
  | .rsh64 dst src => Sys2Proof.Machine.execRsh64 dst src s
  | .rsh32 dst src => Sys2Proof.Machine.execRsh32 dst src s
  | .mod64 dst src => Sys2Proof.Machine.execMod64 dst src s
  | .mod32 dst src => Sys2Proof.Machine.execMod32 dst src s
  | .smod64 dst src => Sys2Proof.Machine.execSmod64 dst src s
  | .smod32 dst src => Sys2Proof.Machine.execSmod32 dst src s
  | .xor64 dst src => Sys2Proof.Machine.execXor64 dst src s
  | .xor32 dst src => Sys2Proof.Machine.execXor32 dst src s
  | .mov64 dst src => Sys2Proof.Machine.execMov64 dst src s
  | .mov32 dst src => Sys2Proof.Machine.execMov32 dst src s
  | .arsh64 dst src => Sys2Proof.Machine.execArsh64 dst src s
  | .arsh32 dst src => Sys2Proof.Machine.execArsh32 dst src s
  | .neg64 dst => Sys2Proof.Machine.execNeg64 dst s
  | .neg32 dst => Sys2Proof.Machine.execNeg32 dst s
  | .movsx8_64 dst src => Sys2Proof.Machine.execMovsx8_64 dst src s
  | .movsx16_64 dst src => Sys2Proof.Machine.execMovsx16_64 dst src s
  | .movsx32_64 dst src => Sys2Proof.Machine.execMovsx32_64 dst src s
  | .movsx8_32 dst src => Sys2Proof.Machine.execMovsx8_32 dst src s
  | .movsx16_32 dst src => Sys2Proof.Machine.execMovsx16_32 dst src s
  | .le16 dst => Sys2Proof.Machine.execLe16 dst s
  | .le32 dst => Sys2Proof.Machine.execLe32 dst s
  | .le64 dst => Sys2Proof.Machine.execLe64 dst s
  | .be16 dst => Sys2Proof.Machine.execBe16 dst s
  | .be32 dst => Sys2Proof.Machine.execBe32 dst s
  | .be64 dst => Sys2Proof.Machine.execBe64 dst s
  | .bswap16 dst => Sys2Proof.Machine.execBswap16 dst s
  | .bswap32 dst => Sys2Proof.Machine.execBswap32 dst s
  | .bswap64 dst => Sys2Proof.Machine.execBswap64 dst s
  | .ja off => Sys2Proof.Machine.execJa off s
  | .ja32 imm => Sys2Proof.Machine.execJa32 imm s
  | .jeq64 dst src off => Sys2Proof.Machine.execJeq64 dst src off s
  | .jeq32 dst src off => Sys2Proof.Machine.execJeq32 dst src off s
  | .jgt64 dst src off => Sys2Proof.Machine.execJgt64 dst src off s
  | .jgt32 dst src off => Sys2Proof.Machine.execJgt32 dst src off s
  | .jge64 dst src off => Sys2Proof.Machine.execJge64 dst src off s
  | .jge32 dst src off => Sys2Proof.Machine.execJge32 dst src off s
  | .jset64 dst src off => Sys2Proof.Machine.execJset64 dst src off s
  | .jset32 dst src off => Sys2Proof.Machine.execJset32 dst src off s
  | .jne64 dst src off => Sys2Proof.Machine.execJne64 dst src off s
  | .jne32 dst src off => Sys2Proof.Machine.execJne32 dst src off s
  | .jsgt64 dst src off => Sys2Proof.Machine.execJsgt64 dst src off s
  | .jsgt32 dst src off => Sys2Proof.Machine.execJsgt32 dst src off s
  | .jsge64 dst src off => Sys2Proof.Machine.execJsge64 dst src off s
  | .jsge32 dst src off => Sys2Proof.Machine.execJsge32 dst src off s
  | .jlt64 dst src off => Sys2Proof.Machine.execJlt64 dst src off s
  | .jlt32 dst src off => Sys2Proof.Machine.execJlt32 dst src off s
  | .jle64 dst src off => Sys2Proof.Machine.execJle64 dst src off s
  | .jle32 dst src off => Sys2Proof.Machine.execJle32 dst src off s
  | .jslt64 dst src off => Sys2Proof.Machine.execJslt64 dst src off s
  | .jslt32 dst src off => Sys2Proof.Machine.execJslt32 dst src off s
  | .jsle64 dst src off => Sys2Proof.Machine.execJsle64 dst src off s
  | .jsle32 dst src off => Sys2Proof.Machine.execJsle32 dst src off s
  | .callHelper imm => Sys2Proof.Machine.execCallHelper imm s
  | .callLocal imm => Sys2Proof.Machine.execCallLocal imm s
  | .callBtf imm => Sys2Proof.Machine.execCallBtf imm s
  | .exit => Sys2Proof.Machine.execExit s
  | .ldxw dst base off => Sys2Proof.Machine.execLdxw dst base off s
  | .ldxh dst base off => Sys2Proof.Machine.execLdxh dst base off s
  | .ldxb dst base off => Sys2Proof.Machine.execLdxb dst base off s
  | .ldxdw dst base off => Sys2Proof.Machine.execLdxdw dst base off s
  | .ldxsw dst base off => Sys2Proof.Machine.execLdxsw dst base off s
  | .ldxsh dst base off => Sys2Proof.Machine.execLdxsh dst base off s
  | .ldxsb dst base off => Sys2Proof.Machine.execLdxsb dst base off s
  | .stw base off imm => Sys2Proof.Machine.execStw base off imm s
  | .sth base off imm => Sys2Proof.Machine.execSth base off imm s
  | .stb base off imm => Sys2Proof.Machine.execStb base off imm s
  | .stdw base off imm => Sys2Proof.Machine.execStdw base off imm s
  | .stxw base off src => Sys2Proof.Machine.execStxw base off src s
  | .stxh base off src => Sys2Proof.Machine.execStxh base off src s
  | .stxb base off src => Sys2Proof.Machine.execStxb base off src s
  | .stxdw base off src => Sys2Proof.Machine.execStxdw base off src s
  | .atomicAdd32 base off src => Sys2Proof.Machine.execAtomicAdd32 base off src s
  | .atomicAdd64 base off src => Sys2Proof.Machine.execAtomicAdd64 base off src s
  | .atomicOr32 base off src => Sys2Proof.Machine.execAtomicOr32 base off src s
  | .atomicOr64 base off src => Sys2Proof.Machine.execAtomicOr64 base off src s
  | .atomicAnd32 base off src => Sys2Proof.Machine.execAtomicAnd32 base off src s
  | .atomicAnd64 base off src => Sys2Proof.Machine.execAtomicAnd64 base off src s
  | .atomicXor32 base off src => Sys2Proof.Machine.execAtomicXor32 base off src s
  | .atomicXor64 base off src => Sys2Proof.Machine.execAtomicXor64 base off src s
  | .atomicFetchAdd32 base off src => Sys2Proof.Machine.execAtomicFetchAdd32 base off src s
  | .atomicFetchAdd64 base off src => Sys2Proof.Machine.execAtomicFetchAdd64 base off src s
  | .atomicFetchOr32 base off src => Sys2Proof.Machine.execAtomicFetchOr32 base off src s
  | .atomicFetchOr64 base off src => Sys2Proof.Machine.execAtomicFetchOr64 base off src s
  | .atomicFetchAnd32 base off src => Sys2Proof.Machine.execAtomicFetchAnd32 base off src s
  | .atomicFetchAnd64 base off src => Sys2Proof.Machine.execAtomicFetchAnd64 base off src s
  | .atomicFetchXor32 base off src => Sys2Proof.Machine.execAtomicFetchXor32 base off src s
  | .atomicFetchXor64 base off src => Sys2Proof.Machine.execAtomicFetchXor64 base off src s
  | .atomicXchg32 base off src => Sys2Proof.Machine.execAtomicXchg32 base off src s
  | .atomicXchg64 base off src => Sys2Proof.Machine.execAtomicXchg64 base off src s
  | .atomicCmpxchg32 base off src => Sys2Proof.Machine.execAtomicCmpxchg32 base off src s
  | .atomicCmpxchg64 base off src => Sys2Proof.Machine.execAtomicCmpxchg64 base off src s
  | .lddw dst imm next => Sys2Proof.Machine.execLddw dst imm next s
  | .ldMapFd dst imm => Sys2Proof.Machine.execLdMapFd dst imm s
  | .ldMapValFd dst imm next => Sys2Proof.Machine.execLdMapValFd dst imm next s
  | .ldVarAddr dst imm => Sys2Proof.Machine.execLdVarAddr dst imm s
  | .ldCodeAddr dst imm => Sys2Proof.Machine.execLdCodeAddr dst imm s
  | .ldMapIdx dst imm => Sys2Proof.Machine.execLdMapIdx dst imm s
  | .ldMapValIdx dst imm next => Sys2Proof.Machine.execLdMapValIdx dst imm next s

end Sys2Proof.Machine
end

