-- ==== Sys2Proof/WellFormed.lean ====
section
/-! DEFINITION. What makes an instruction term one that an encoding can spell: the register its
fields name as written is not R10 (10_state.md R25). Also the facts of an instruction the decoder
checks or needs: its length (30_encoding.md R95) and its conformance group (00_scope.md R2). -/

namespace Sys2Proof

/-- The register a field of the instruction names as written: `dst_reg` of every arithmetic, load
and 64-bit immediate instruction, `src_reg` of the FETCH forms and XCHG (10_state.md R25).
CMPXCHG, the calls and `exit` write registers no field names. -/
def Instr.writes : Instr → Option Reg
  | .add64 dst _ | .add32 dst _ | .sub64 dst _ | .sub32 dst _ | .mul64 dst _ | .mul32 dst _
  | .div64 dst _ | .div32 dst _ | .sdiv64 dst _ | .sdiv32 dst _ | .or64 dst _ | .or32 dst _
  | .and64 dst _ | .and32 dst _ | .lsh64 dst _ | .lsh32 dst _ | .rsh64 dst _ | .rsh32 dst _
  | .mod64 dst _ | .mod32 dst _ | .smod64 dst _ | .smod32 dst _ | .xor64 dst _ | .xor32 dst _
  | .mov64 dst _ | .mov32 dst _ | .arsh64 dst _ | .arsh32 dst _ | .neg64 dst | .neg32 dst
  | .movsx8_64 dst _ | .movsx16_64 dst _ | .movsx32_64 dst _ | .movsx8_32 dst _
  | .movsx16_32 dst _ | .le16 dst | .le32 dst | .le64 dst | .be16 dst | .be32 dst | .be64 dst
  | .bswap16 dst | .bswap32 dst | .bswap64 dst | .ldxw dst _ _ | .ldxh dst _ _ | .ldxb dst _ _
  | .ldxdw dst _ _ | .ldxsw dst _ _ | .ldxsh dst _ _ | .ldxsb dst _ _ | .lddw dst _ _
  | .ldMapFd dst _ | .ldMapValFd dst _ _ | .ldVarAddr dst _ | .ldCodeAddr dst _
  | .ldMapIdx dst _ | .ldMapValIdx dst _ _ => some dst
  | .atomicFetchAdd32 _ _ src | .atomicFetchAdd64 _ _ src | .atomicFetchOr32 _ _ src
  | .atomicFetchOr64 _ _ src | .atomicFetchAnd32 _ _ src | .atomicFetchAnd64 _ _ src
  | .atomicFetchXor32 _ _ src | .atomicFetchXor64 _ _ src | .atomicXchg32 _ _ src
  | .atomicXchg64 _ _ src => some src
  | .ja _ | .ja32 _ | .jeq64 _ _ _ | .jeq32 _ _ _ | .jgt64 _ _ _ | .jgt32 _ _ _ | .jge64 _ _ _
  | .jge32 _ _ _ | .jset64 _ _ _ | .jset32 _ _ _ | .jne64 _ _ _ | .jne32 _ _ _ | .jsgt64 _ _ _
  | .jsgt32 _ _ _ | .jsge64 _ _ _ | .jsge32 _ _ _ | .jlt64 _ _ _ | .jlt32 _ _ _ | .jle64 _ _ _
  | .jle32 _ _ _ | .jslt64 _ _ _ | .jslt32 _ _ _ | .jsle64 _ _ _ | .jsle32 _ _ _
  | .callHelper _ | .callLocal _ | .callBtf _ | .exit | .stw _ _ _ | .sth _ _ _ | .stb _ _ _
  | .stdw _ _ _ | .stxw _ _ _ | .stxh _ _ _ | .stxb _ _ _ | .stxdw _ _ _ | .atomicAdd32 _ _ _
  | .atomicAdd64 _ _ _ | .atomicOr32 _ _ _ | .atomicOr64 _ _ _ | .atomicAnd32 _ _ _
  | .atomicAnd64 _ _ _ | .atomicXor32 _ _ _ | .atomicXor64 _ _ _ | .atomicCmpxchg32 _ _ _
  | .atomicCmpxchg64 _ _ _ => none

/-- No instruction names R10 as a register to write (10_state.md R25). Register numbers 11 to 15
cannot be written down in `Reg` (10_state.md R21). -/
def Instr.wellFormed (i : Instr) : Bool := i.writes != some Reg.fp

/-- The wide instructions, which take two slots (30_encoding.md R82, R95). -/
def Instr.wide : Instr → Bool
  | .lddw _ _ _ | .ldMapFd _ _ | .ldMapValFd _ _ _ | .ldVarAddr _ _ | .ldCodeAddr _ _
  | .ldMapIdx _ _ | .ldMapValIdx _ _ _ => true
  | .add64 _ _ | .add32 _ _ | .sub64 _ _ | .sub32 _ _ | .mul64 _ _ | .mul32 _ _ | .div64 _ _
  | .div32 _ _ | .sdiv64 _ _ | .sdiv32 _ _ | .or64 _ _ | .or32 _ _ | .and64 _ _ | .and32 _ _
  | .lsh64 _ _ | .lsh32 _ _ | .rsh64 _ _ | .rsh32 _ _ | .mod64 _ _ | .mod32 _ _ | .smod64 _ _
  | .smod32 _ _ | .xor64 _ _ | .xor32 _ _ | .mov64 _ _ | .mov32 _ _ | .arsh64 _ _ | .arsh32 _ _
  | .neg64 _ | .neg32 _ | .movsx8_64 _ _ | .movsx16_64 _ _ | .movsx32_64 _ _ | .movsx8_32 _ _
  | .movsx16_32 _ _ | .le16 _ | .le32 _ | .le64 _ | .be16 _ | .be32 _ | .be64 _ | .bswap16 _
  | .bswap32 _ | .bswap64 _ | .ja _ | .ja32 _ | .jeq64 _ _ _ | .jeq32 _ _ _ | .jgt64 _ _ _
  | .jgt32 _ _ _ | .jge64 _ _ _ | .jge32 _ _ _ | .jset64 _ _ _ | .jset32 _ _ _ | .jne64 _ _ _
  | .jne32 _ _ _ | .jsgt64 _ _ _ | .jsgt32 _ _ _ | .jsge64 _ _ _ | .jsge32 _ _ _ | .jlt64 _ _ _
  | .jlt32 _ _ _ | .jle64 _ _ _ | .jle32 _ _ _ | .jslt64 _ _ _ | .jslt32 _ _ _ | .jsle64 _ _ _
  | .jsle32 _ _ _ | .callHelper _ | .callLocal _ | .callBtf _ | .exit | .ldxw _ _ _
  | .ldxh _ _ _ | .ldxb _ _ _ | .ldxdw _ _ _ | .ldxsw _ _ _ | .ldxsh _ _ _ | .ldxsb _ _ _
  | .stw _ _ _ | .sth _ _ _ | .stb _ _ _ | .stdw _ _ _ | .stxw _ _ _ | .stxh _ _ _
  | .stxb _ _ _ | .stxdw _ _ _ | .atomicAdd32 _ _ _ | .atomicAdd64 _ _ _ | .atomicOr32 _ _ _
  | .atomicOr64 _ _ _ | .atomicAnd32 _ _ _ | .atomicAnd64 _ _ _ | .atomicXor32 _ _ _
  | .atomicXor64 _ _ _ | .atomicFetchAdd32 _ _ _ | .atomicFetchAdd64 _ _ _
  | .atomicFetchOr32 _ _ _ | .atomicFetchOr64 _ _ _ | .atomicFetchAnd32 _ _ _
  | .atomicFetchAnd64 _ _ _ | .atomicFetchXor32 _ _ _ | .atomicFetchXor64 _ _ _
  | .atomicXchg32 _ _ _ | .atomicXchg64 _ _ _ | .atomicCmpxchg32 _ _ _ | .atomicCmpxchg64 _ _ _ => false

/-- How many slots the instruction takes (30_encoding.md R81, R82). -/
def Instr.slots (i : Instr) : Nat := if i.wide then 2 else 1

/-- The conformance group the source names for the instruction, if any (00_scope.md R2;
40_arithmetic.md R170; 43_atomic.md R275; the `group` column of opcode_table.json). -/
def Instr.group : Instr → Option Group
  | .le64 _ | .be64 _ | .bswap64 _ => some .base64
  | .le16 _ | .le32 _ | .be16 _ | .be32 _ | .bswap16 _ | .bswap32 _ => some .base32
  | .atomicAdd32 _ _ _ | .atomicOr32 _ _ _ | .atomicAnd32 _ _ _ | .atomicXor32 _ _ _
  | .atomicFetchAdd32 _ _ _ | .atomicFetchOr32 _ _ _ | .atomicFetchAnd32 _ _ _
  | .atomicFetchXor32 _ _ _ | .atomicXchg32 _ _ _ | .atomicCmpxchg32 _ _ _ => some .atomic32
  | .atomicAdd64 _ _ _ | .atomicOr64 _ _ _ | .atomicAnd64 _ _ _ | .atomicXor64 _ _ _
  | .atomicFetchAdd64 _ _ _ | .atomicFetchOr64 _ _ _ | .atomicFetchAnd64 _ _ _
  | .atomicFetchXor64 _ _ _ | .atomicXchg64 _ _ _ | .atomicCmpxchg64 _ _ _ => some .atomic64
  | .add64 _ _ | .add32 _ _ | .sub64 _ _ | .sub32 _ _ | .mul64 _ _ | .mul32 _ _ | .div64 _ _
  | .div32 _ _ | .sdiv64 _ _ | .sdiv32 _ _ | .or64 _ _ | .or32 _ _ | .and64 _ _ | .and32 _ _
  | .lsh64 _ _ | .lsh32 _ _ | .rsh64 _ _ | .rsh32 _ _ | .mod64 _ _ | .mod32 _ _ | .smod64 _ _
  | .smod32 _ _ | .xor64 _ _ | .xor32 _ _ | .mov64 _ _ | .mov32 _ _ | .arsh64 _ _ | .arsh32 _ _
  | .neg64 _ | .neg32 _ | .movsx8_64 _ _ | .movsx16_64 _ _ | .movsx32_64 _ _ | .movsx8_32 _ _
  | .movsx16_32 _ _ | .ja _ | .ja32 _ | .jeq64 _ _ _ | .jeq32 _ _ _ | .jgt64 _ _ _
  | .jgt32 _ _ _ | .jge64 _ _ _ | .jge32 _ _ _ | .jset64 _ _ _ | .jset32 _ _ _ | .jne64 _ _ _
  | .jne32 _ _ _ | .jsgt64 _ _ _ | .jsgt32 _ _ _ | .jsge64 _ _ _ | .jsge32 _ _ _ | .jlt64 _ _ _
  | .jlt32 _ _ _ | .jle64 _ _ _ | .jle32 _ _ _ | .jslt64 _ _ _ | .jslt32 _ _ _ | .jsle64 _ _ _
  | .jsle32 _ _ _ | .callHelper _ | .callLocal _ | .callBtf _ | .exit | .ldxw _ _ _
  | .ldxh _ _ _ | .ldxb _ _ _ | .ldxdw _ _ _ | .ldxsw _ _ _ | .ldxsh _ _ _ | .ldxsb _ _ _
  | .stw _ _ _ | .sth _ _ _ | .stb _ _ _ | .stdw _ _ _ | .stxw _ _ _ | .stxh _ _ _
  | .stxb _ _ _ | .stxdw _ _ _ | .lddw _ _ _ | .ldMapFd _ _ | .ldMapValFd _ _ _
  | .ldVarAddr _ _ | .ldCodeAddr _ _ | .ldMapIdx _ _ | .ldMapValIdx _ _ _ => none

/-- An instruction of no named group is always implemented; one of a named group is implemented
when GROUPS holds the group (00_scope.md R2, R8). -/
def Instr.implemented (groups : List Group) (i : Instr) : Bool :=
  match i.group with
  | none => true
  | some g => groups.contains g

/-- The `src_reg` field of a conditional jump with an immediate operand is "any" and ignored
(30_encoding.md R100): the only field of an admitted word that its instruction does not fix. -/
def Instr.ignoresSrcField : Instr → Bool
  | .jeq64 _ src _ | .jeq32 _ src _ | .jgt64 _ src _ | .jgt32 _ src _ | .jge64 _ src _
  | .jge32 _ src _ | .jset64 _ src _ | .jset32 _ src _ | .jne64 _ src _ | .jne32 _ src _
  | .jsgt64 _ src _ | .jsgt32 _ src _ | .jsge64 _ src _ | .jsge32 _ src _ | .jlt64 _ src _
  | .jlt32 _ src _ | .jle64 _ src _ | .jle32 _ src _ | .jslt64 _ src _ | .jslt32 _ src _
  | .jsle64 _ src _ | .jsle32 _ src _ => match src with
    | .imm _ => true
    | .reg _ => false
  | .add64 _ _ | .add32 _ _ | .sub64 _ _ | .sub32 _ _ | .mul64 _ _ | .mul32 _ _ | .div64 _ _
  | .div32 _ _ | .sdiv64 _ _ | .sdiv32 _ _ | .or64 _ _ | .or32 _ _ | .and64 _ _ | .and32 _ _
  | .lsh64 _ _ | .lsh32 _ _ | .rsh64 _ _ | .rsh32 _ _ | .mod64 _ _ | .mod32 _ _ | .smod64 _ _
  | .smod32 _ _ | .xor64 _ _ | .xor32 _ _ | .mov64 _ _ | .mov32 _ _ | .arsh64 _ _ | .arsh32 _ _
  | .neg64 _ | .neg32 _ | .movsx8_64 _ _ | .movsx16_64 _ _ | .movsx32_64 _ _ | .movsx8_32 _ _
  | .movsx16_32 _ _ | .le16 _ | .le32 _ | .le64 _ | .be16 _ | .be32 _ | .be64 _ | .bswap16 _
  | .bswap32 _ | .bswap64 _ | .ja _ | .ja32 _ | .callHelper _ | .callLocal _ | .callBtf _
  | .exit | .ldxw _ _ _ | .ldxh _ _ _ | .ldxb _ _ _ | .ldxdw _ _ _ | .ldxsw _ _ _
  | .ldxsh _ _ _ | .ldxsb _ _ _ | .stw _ _ _ | .sth _ _ _ | .stb _ _ _ | .stdw _ _ _
  | .stxw _ _ _ | .stxh _ _ _ | .stxb _ _ _ | .stxdw _ _ _ | .atomicAdd32 _ _ _
  | .atomicAdd64 _ _ _ | .atomicOr32 _ _ _ | .atomicOr64 _ _ _ | .atomicAnd32 _ _ _
  | .atomicAnd64 _ _ _ | .atomicXor32 _ _ _ | .atomicXor64 _ _ _ | .atomicFetchAdd32 _ _ _
  | .atomicFetchAdd64 _ _ _ | .atomicFetchOr32 _ _ _ | .atomicFetchOr64 _ _ _
  | .atomicFetchAnd32 _ _ _ | .atomicFetchAnd64 _ _ _ | .atomicFetchXor32 _ _ _
  | .atomicFetchXor64 _ _ _ | .atomicXchg32 _ _ _ | .atomicXchg64 _ _ _
  | .atomicCmpxchg32 _ _ _ | .atomicCmpxchg64 _ _ _ | .lddw _ _ _ | .ldMapFd _ _
  | .ldMapValFd _ _ _ | .ldVarAddr _ _ | .ldCodeAddr _ _ | .ldMapIdx _ _ | .ldMapValIdx _ _ _ => false

end Sys2Proof
end

