-- ==== Sys2Proof/Decode.lean ====
section
/-! DEFINITION. The decoder, total on any bytes (30_encoding.md R96), and after it the encoder, both
written from the encoding tables of 30_encoding.md. -/

namespace Sys2Proof

/-- The fields of a basic instruction or of the first slot of a wide one (30_encoding.md R81, R86). -/
structure Fields where
  opcode : BitVec 8
  dst : BitVec 4
  src : BitVec 4
  off : BitVec 16
  imm : BitVec 32
deriving DecidableEq, Repr

/-- Why a word is no instruction (30_encoding.md R96). -/
inductive DecodeError where
  /-- Steps 3 and 5 to 8 of R96: the word spells no instruction (60_exceptions.md R302). -/
  | illegalEncoding
  /-- Step 4 of R96: mode ABS or IND (44_immediate64.md R290, R291). -/
  | legacyPacketAccess
deriving DecidableEq, Repr

/-! ### Slots, fields and the canonical word -/

/-- The fields of a slot in the byte order of the host (30_encoding.md R81, R83, R84). -/
def Slot.fields (e : Endian) (s : Slot) : Fields :=
  match e with
  | .le => ⟨s.b0, s.b1.extractLsb' 0 4, s.b1.extractLsb' 4 4, s.b3 ++ s.b2,
      s.b7 ++ s.b6 ++ s.b5 ++ s.b4⟩
  | .be => ⟨s.b0, s.b1.extractLsb' 4 4, s.b1.extractLsb' 0 4, s.b2 ++ s.b3,
      s.b4 ++ s.b5 ++ s.b6 ++ s.b7⟩

/-- The slot that spells the fields in the byte order of the host (30_encoding.md R81, R83, R84). -/
def Fields.toSlot (e : Endian) (f : Fields) : Slot :=
  match e with
  | .le => ⟨f.opcode, f.src ++ f.dst, f.off.extractLsb' 0 8, f.off.extractLsb' 8 8,
      f.imm.extractLsb' 0 8, f.imm.extractLsb' 8 8, f.imm.extractLsb' 16 8, f.imm.extractLsb' 24 8⟩
  | .be => ⟨f.opcode, f.dst ++ f.src, f.off.extractLsb' 8 8, f.off.extractLsb' 0 8,
      f.imm.extractLsb' 24 8, f.imm.extractLsb' 16 8, f.imm.extractLsb' 8 8, f.imm.extractLsb' 0 8⟩

/-- The canonical word of a slot, the same for both host orders (30_encoding.md R85). -/
def Fields.word (f : Fields) : BitVec 64 := f.imm ++ f.off ++ f.src ++ f.dst ++ f.opcode

/-- The fields a canonical word holds (30_encoding.md R86). -/
def Fields.ofWord (w : BitVec 64) : Fields :=
  ⟨w.extractLsb' 0 8, w.extractLsb' 8 4, w.extractLsb' 12 4, w.extractLsb' 16 16,
    w.extractLsb' 32 32⟩

/-- The 32 reserved bits of the second slot of a wide instruction are zero (30_encoding.md R82). -/
def Slot.reservedZero (s : Slot) : Bool := s.b0 == 0 && s.b1 == 0 && s.b2 == 0 && s.b3 == 0

/-! ### The parts of the opcode byte -/

/-- `class = opcode[2:0]` (30_encoding.md R87). -/
def Fields.cls (f : Fields) : BitVec 3 := f.opcode.extractLsb' 0 3

/-- `code = opcode[7:4]` of the arithmetic and jump classes (30_encoding.md R89). -/
def Fields.code (f : Fields) : BitVec 4 := f.opcode.extractLsb' 4 4

/-- The source bit `s = opcode[3]` (30_encoding.md R89, R90): 0 is K, 1 is X. -/
def Fields.s (f : Fields) : BitVec 1 := f.opcode.extractLsb' 3 1

/-- `mode = opcode[7:5]` of the load and store classes (30_encoding.md R91). -/
def Fields.mode (f : Fields) : BitVec 3 := f.opcode.extractLsb' 5 3

/-- `sz = opcode[4:3]` of the load and store classes (30_encoding.md R91). -/
def Fields.size (f : Fields) : BitVec 2 := f.opcode.extractLsb' 3 2

/-- The register a field names, if it is one of R0 to R10 (10_state.md R21). -/
def regOfField (v : BitVec 4) : Option Reg :=
  if h : v.toNat < 11 then some ⟨v.toNat, h⟩ else none

/-- The opcode byte of every wide instruction (30_encoding.md R95). -/
def wideOpcode : BitVec 8 := 0x18

/-! ### The instruction forms: each checks the fields its form does not use (30_encoding.md R100) -/

/-- A two-operand arithmetic instruction: `src_reg` is zero with K, `imm` with X. -/
def Fields.twoOperand (f : Fields) (c : Reg → Src → Instr) : Option Instr :=
  match regOfField f.dst with
  | none => none
  | some d =>
    if f.s = 0 then
      if f.src = 0 then some (c d (.imm f.imm)) else none
    else if f.imm = 0 then (regOfField f.src).map fun r => c d (.reg r)
    else none

/-- NEG: `s` is 0, `src_reg` and `imm` are zero (40_arithmetic.md R152). -/
def Fields.negation (f : Fields) (c : Reg → Instr) : Option Instr :=
  if f.s = 0 ∧ f.src = 0 ∧ f.imm = 0 then (regOfField f.dst).map c else none

/-- MOVSX: `s` is 1, `imm` is zero (40_arithmetic.md R160). -/
def Fields.registerMove (f : Fields) (c : Reg → Reg → Instr) : Option Instr :=
  match regOfField f.dst with
  | none => none
  | some d => if f.s = 1 ∧ f.imm = 0 then (regOfField f.src).map (c d) else none

/-- A byte swap of the width `imm` selects; `src_reg` is zero (40_arithmetic.md R170). -/
def Fields.swapOf (f : Fields) (c16 c32 c64 : Reg → Instr) : Option Instr :=
  if f.src = 0 then
    match f.imm.toNat with
    | 16 => (regOfField f.dst).map c16
    | 32 => (regOfField f.dst).map c32
    | 64 => (regOfField f.dst).map c64
    | _ => none
  else none

/-- END of class ALU: TO_LE with `s` 0, TO_BE with `s` 1 (40_arithmetic.md R170). -/
def Fields.swap32 (f : Fields) : Option Instr :=
  if f.s = 0 then f.swapOf .le16 .le32 .le64 else f.swapOf .be16 .be32 .be64

/-- END of class ALU64: the unconditional swap, `s` 0 only (40_arithmetic.md R170). -/
def Fields.swap64 (f : Fields) : Option Instr :=
  if f.s = 0 then f.swapOf .bswap16 .bswap32 .bswap64 else none

/-- A conditional jump: `src_reg` is ignored with K, `imm` is zero with X (30_encoding.md R100). -/
def Fields.conditional (f : Fields) (c : Reg → Src → BitVec 16 → Instr) : Option Instr :=
  match regOfField f.dst with
  | none => none
  | some d =>
    if f.s = 0 then some (c d (.imm f.imm) f.off)
    else if f.imm = 0 then (regOfField f.src).map fun r => c d (.reg r) f.off
    else none

/-- CALL: `dst_reg` and `offset` are zero, `src_reg` selects the kind (41_jump.md R199). -/
def Fields.call (f : Fields) : Option Instr :=
  if f.s = 0 ∧ f.dst = 0 ∧ f.off = 0 then
    match f.src.toNat with
    | 0 => some (.callHelper f.imm)
    | 1 => some (.callLocal f.imm)
    | 2 => some (.callBtf f.imm)
    | _ => none
  else none

/-- A load: `imm` is zero (42_load_store.md R222). -/
def Fields.load (f : Fields) (c : Reg → Reg → BitVec 16 → Instr) : Option Instr :=
  match regOfField f.dst with
  | none => none
  | some d => if f.imm = 0 then (regOfField f.src).map fun b => c d b f.off else none

/-- A store of an immediate: `src_reg` is zero (42_load_store.md R223). -/
def Fields.storeImm (f : Fields) (c : Reg → BitVec 16 → BitVec 32 → Instr) : Option Instr :=
  if f.src = 0 then (regOfField f.dst).map fun b => c b f.off f.imm else none

/-- A store of a register: `imm` is zero (42_load_store.md R223). -/
def Fields.storeReg (f : Fields) (c : Reg → BitVec 16 → Reg → Instr) : Option Instr :=
  match regOfField f.dst with
  | none => none
  | some b => if f.imm = 0 then (regOfField f.src).map (c b f.off) else none

/-- An atomic instruction, its `imm` already matched (43_atomic.md R250). -/
def Fields.atomic (f : Fields) (c : Reg → BitVec 16 → Reg → Instr) : Option Instr :=
  match regOfField f.dst with
  | none => none
  | some b => (regOfField f.src).map (c b f.off)

/-! ### The opcode map, class by class (30_encoding.md R97) -/

/-- Class ALU64, by code and offset (40_arithmetic.md, the source's table). -/
def decodeAlu64 (f : Fields) : Option Instr :=
  match f.code.toNat, f.off.toNat with
  | 0x0, 0 => f.twoOperand .add64
  | 0x1, 0 => f.twoOperand .sub64
  | 0x2, 0 => f.twoOperand .mul64
  | 0x3, 0 => f.twoOperand .div64
  | 0x3, 1 => f.twoOperand .sdiv64
  | 0x4, 0 => f.twoOperand .or64
  | 0x5, 0 => f.twoOperand .and64
  | 0x6, 0 => f.twoOperand .lsh64
  | 0x7, 0 => f.twoOperand .rsh64
  | 0x8, 0 => f.negation .neg64
  | 0x9, 0 => f.twoOperand .mod64
  | 0x9, 1 => f.twoOperand .smod64
  | 0xa, 0 => f.twoOperand .xor64
  | 0xb, 0 => f.twoOperand .mov64
  | 0xb, 8 => f.registerMove .movsx8_64
  | 0xb, 16 => f.registerMove .movsx16_64
  | 0xb, 32 => f.registerMove .movsx32_64
  | 0xc, 0 => f.twoOperand .arsh64
  | 0xd, 0 => f.swap64
  | _, _ => none

/-- Class ALU, by code and offset (40_arithmetic.md, the source's table). -/
def decodeAlu32 (f : Fields) : Option Instr :=
  match f.code.toNat, f.off.toNat with
  | 0x0, 0 => f.twoOperand .add32
  | 0x1, 0 => f.twoOperand .sub32
  | 0x2, 0 => f.twoOperand .mul32
  | 0x3, 0 => f.twoOperand .div32
  | 0x3, 1 => f.twoOperand .sdiv32
  | 0x4, 0 => f.twoOperand .or32
  | 0x5, 0 => f.twoOperand .and32
  | 0x6, 0 => f.twoOperand .lsh32
  | 0x7, 0 => f.twoOperand .rsh32
  | 0x8, 0 => f.negation .neg32
  | 0x9, 0 => f.twoOperand .mod32
  | 0x9, 1 => f.twoOperand .smod32
  | 0xa, 0 => f.twoOperand .xor32
  | 0xb, 0 => f.twoOperand .mov32
  | 0xb, 8 => f.registerMove .movsx8_32
  | 0xb, 16 => f.registerMove .movsx16_32
  | 0xc, 0 => f.twoOperand .arsh32
  | 0xd, 0 => f.swap32
  | _, _ => none

/-- Class JMP (41_jump.md, the source's table). -/
def decodeJmp (f : Fields) : Option Instr :=
  match f.code.toNat with
  | 0x0 => if f.s = 0 ∧ f.dst = 0 ∧ f.src = 0 ∧ f.imm = 0 then some (.ja f.off) else none
  | 0x1 => f.conditional .jeq64
  | 0x2 => f.conditional .jgt64
  | 0x3 => f.conditional .jge64
  | 0x4 => f.conditional .jset64
  | 0x5 => f.conditional .jne64
  | 0x6 => f.conditional .jsgt64
  | 0x7 => f.conditional .jsge64
  | 0xa => f.conditional .jlt64
  | 0xb => f.conditional .jle64
  | 0xc => f.conditional .jslt64
  | 0xd => f.conditional .jsle64
  | 0x8 => f.call
  | 0x9 =>
    if f.s = 0 ∧ f.dst = 0 ∧ f.src = 0 ∧ f.off = 0 ∧ f.imm = 0 then some .exit else none
  | _ => none

/-- Class JMP32 (41_jump.md, the source's table). -/
def decodeJmp32 (f : Fields) : Option Instr :=
  match f.code.toNat with
  | 0x0 => if f.s = 0 ∧ f.dst = 0 ∧ f.src = 0 ∧ f.off = 0 then some (.ja32 f.imm) else none
  | 0x1 => f.conditional .jeq32
  | 0x2 => f.conditional .jgt32
  | 0x3 => f.conditional .jge32
  | 0x4 => f.conditional .jset32
  | 0x5 => f.conditional .jne32
  | 0x6 => f.conditional .jsgt32
  | 0x7 => f.conditional .jsge32
  | 0xa => f.conditional .jlt32
  | 0xb => f.conditional .jle32
  | 0xc => f.conditional .jslt32
  | 0xd => f.conditional .jsle32
  | _ => none

/-- Class LDX, by mode and size (42_load_store.md R220). -/
def decodeLdx (f : Fields) : Option Instr :=
  match f.mode.toNat, f.size.toNat with
  | 3, 0 => f.load .ldxw
  | 3, 1 => f.load .ldxh
  | 3, 2 => f.load .ldxb
  | 3, 3 => f.load .ldxdw
  | 4, 0 => f.load .ldxsw
  | 4, 1 => f.load .ldxsh
  | 4, 2 => f.load .ldxsb
  | _, _ => none

/-- Class ST, by mode and size (42_load_store.md R220). -/
def decodeSt (f : Fields) : Option Instr :=
  match f.mode.toNat, f.size.toNat with
  | 3, 0 => f.storeImm .stw
  | 3, 1 => f.storeImm .sth
  | 3, 2 => f.storeImm .stb
  | 3, 3 => f.storeImm .stdw
  | _, _ => none

/-- The 32-bit atomics, selected by `imm` (43_atomic.md R250). -/
def decodeAtomic32 (f : Fields) : Option Instr :=
  match f.imm.toNat with
  | 0x00 => f.atomic .atomicAdd32
  | 0x40 => f.atomic .atomicOr32
  | 0x50 => f.atomic .atomicAnd32
  | 0xa0 => f.atomic .atomicXor32
  | 0x01 => f.atomic .atomicFetchAdd32
  | 0x41 => f.atomic .atomicFetchOr32
  | 0x51 => f.atomic .atomicFetchAnd32
  | 0xa1 => f.atomic .atomicFetchXor32
  | 0xe1 => f.atomic .atomicXchg32
  | 0xf1 => f.atomic .atomicCmpxchg32
  | _ => none

/-- The 64-bit atomics, selected by `imm` (43_atomic.md R250). -/
def decodeAtomic64 (f : Fields) : Option Instr :=
  match f.imm.toNat with
  | 0x00 => f.atomic .atomicAdd64
  | 0x40 => f.atomic .atomicOr64
  | 0x50 => f.atomic .atomicAnd64
  | 0xa0 => f.atomic .atomicXor64
  | 0x01 => f.atomic .atomicFetchAdd64
  | 0x41 => f.atomic .atomicFetchOr64
  | 0x51 => f.atomic .atomicFetchAnd64
  | 0xa1 => f.atomic .atomicFetchXor64
  | 0xe1 => f.atomic .atomicXchg64
  | 0xf1 => f.atomic .atomicCmpxchg64
  | _ => none

/-- Class STX, by mode and size (42_load_store.md R220; 43_atomic.md R250). -/
def decodeStx (f : Fields) : Option Instr :=
  match f.mode.toNat, f.size.toNat with
  | 3, 0 => f.storeReg .stxw
  | 3, 1 => f.storeReg .stxh
  | 3, 2 => f.storeReg .stxb
  | 3, 3 => f.storeReg .stxdw
  | 6, 0 => decodeAtomic32 f
  | 6, 3 => decodeAtomic64 f
  | _, _ => none

/-- The wide instructions: `src_reg` is the subtype, `offset` is zero, `next_imm` is zero in the
subtypes that do not use it (44_immediate64.md R280). -/
def decodeWide (f : Fields) (next : BitVec 32) : Option Instr :=
  if f.off = 0 then
    match regOfField f.dst with
    | none => none
    | some d =>
      match f.src.toNat with
      | 0 => some (.lddw d f.imm next)
      | 1 => if next = 0 then some (.ldMapFd d f.imm) else none
      | 2 => some (.ldMapValFd d f.imm next)
      | 3 => if next = 0 then some (.ldVarAddr d f.imm) else none
      | 4 => if next = 0 then some (.ldCodeAddr d f.imm) else none
      | 5 => if next = 0 then some (.ldMapIdx d f.imm) else none
      | 6 => some (.ldMapValIdx d f.imm next)
      | _ => none
  else none

/-- The basic instructions, by class (30_encoding.md R88). Class LD has no basic instruction. -/
def decodeBasic (f : Fields) : Option Instr :=
  match f.cls.toNat with
  | 1 => decodeLdx f
  | 2 => decodeSt f
  | 3 => decodeStx f
  | 4 => decodeAlu32 f
  | 5 => decodeJmp f
  | 6 => decodeJmp32 f
  | 7 => decodeAlu64 f
  | _ => none

/-- An opcode byte of a load or store class with mode ABS or IND (30_encoding.md R96 step 4). -/
def Fields.legacy (f : Fields) : Bool :=
  decide (f.cls.toNat < 4) && (f.mode == 1 || f.mode == 2)

/-- Steps 5 to 8 of 30_encoding.md R96, the row found or not: no row, a bad register number, a write
to R10 and a group not in GROUPS are illegal encodings. -/
def accept (groups : List Group) (found : Option Instr) : Except DecodeError Instr :=
  match found with
  | none => .error .illegalEncoding
  | some i => if i.wellFormed && i.implemented groups then .ok i else .error .illegalEncoding

/-- The decoder (30_encoding.md R96 steps 2 to 8): the slot at `pc` and the slot after it, `none`
where the program ends. -/
def decode (e : Endian) (groups : List Group) (first : Slot) (second : Option Slot) :
    Except DecodeError Instr :=
  let f := first.fields e
  if f.opcode = wideOpcode then
    match second with
    | none => .error .illegalEncoding
    | some s =>
      if s.reservedZero then accept groups (decodeWide f (s.fields e).imm)
      else .error .illegalEncoding
  else if f.legacy then .error .legacyPacketAccess
  else accept groups (decodeBasic f)

/-! ### The encoder -/

/-- The four-bit field of a register number. -/
def fieldOfReg (r : Reg) : BitVec 4 := BitVec.ofNat 4 r.val

/-- `opcode = code << 4 | s << 3 | class` (30_encoding.md R89). -/
def opcodeOf (code : BitVec 4) (s : BitVec 1) (cls : BitVec 3) : BitVec 8 := code ++ s ++ cls

/-- `opcode = mode << 5 | sz << 3 | class` (30_encoding.md R91). -/
def memOpcodeOf (mode : BitVec 3) (sz : BitVec 2) (cls : BitVec 3) : BitVec 8 := mode ++ sz ++ cls

/-- Class LD (30_encoding.md R88). -/
abbrev clsLd : BitVec 3 := 0
/-- Class LDX (30_encoding.md R88). -/
abbrev clsLdx : BitVec 3 := 1
/-- Class ST (30_encoding.md R88). -/
abbrev clsSt : BitVec 3 := 2
/-- Class STX (30_encoding.md R88). -/
abbrev clsStx : BitVec 3 := 3
/-- Class ALU (30_encoding.md R88). -/
abbrev clsAlu32 : BitVec 3 := 4
/-- Class JMP (30_encoding.md R88). -/
abbrev clsJmp : BitVec 3 := 5
/-- Class JMP32 (30_encoding.md R88). -/
abbrev clsJmp32 : BitVec 3 := 6
/-- Class ALU64 (30_encoding.md R88). -/
abbrev clsAlu64 : BitVec 3 := 7
/-- Mode IMM (30_encoding.md R92). -/
abbrev modeImm : BitVec 3 := 0
/-- Mode MEM (30_encoding.md R92). -/
abbrev modeMem : BitVec 3 := 3
/-- Mode MEMSX (30_encoding.md R92). -/
abbrev modeMemsx : BitVec 3 := 4
/-- Mode ATOMIC (30_encoding.md R92). -/
abbrev modeAtomic : BitVec 3 := 6
/-- Size W, four bytes (30_encoding.md R93). -/
abbrev sizeW : BitVec 2 := 0
/-- Size H, two bytes (30_encoding.md R93). -/
abbrev sizeH : BitVec 2 := 1
/-- Size B, one byte (30_encoding.md R93). -/
abbrev sizeB : BitVec 2 := 2
/-- Size DW, eight bytes (30_encoding.md R93). -/
abbrev sizeDw : BitVec 2 := 3

/-- The fields of a two-operand arithmetic instruction (30_encoding.md R89, R90, R100). -/
def Fields.ofTwoOperand (code : BitVec 4) (cls : BitVec 3) (off : BitVec 16) (dst : Reg) (src : Src) :
    Fields :=
  match src with
  | .imm v => ⟨opcodeOf code 0 cls, fieldOfReg dst, 0, off, v⟩
  | .reg r => ⟨opcodeOf code 1 cls, fieldOfReg dst, fieldOfReg r, off, 0⟩

/-- The fields of a conditional jump. The ignored `src_reg` of the K form, which 30_encoding.md R100
leaves free, is written as zero (DESIGN CHOICE, log 17). -/
def Fields.ofConditional (code : BitVec 4) (cls : BitVec 3) (dst : Reg) (src : Src)
    (off : BitVec 16) : Fields :=
  match src with
  | .imm v => ⟨opcodeOf code 0 cls, fieldOfReg dst, 0, off, v⟩
  | .reg r => ⟨opcodeOf code 1 cls, fieldOfReg dst, fieldOfReg r, off, 0⟩

/-- The fields of the instruction's first slot (30_encoding.md R97, R100). -/
def Instr.fields : Instr → Fields
  | .add64 dst src => Fields.ofTwoOperand 0x0 clsAlu64 0 dst src
  | .add32 dst src => Fields.ofTwoOperand 0x0 clsAlu32 0 dst src
  | .sub64 dst src => Fields.ofTwoOperand 0x1 clsAlu64 0 dst src
  | .sub32 dst src => Fields.ofTwoOperand 0x1 clsAlu32 0 dst src
  | .mul64 dst src => Fields.ofTwoOperand 0x2 clsAlu64 0 dst src
  | .mul32 dst src => Fields.ofTwoOperand 0x2 clsAlu32 0 dst src
  | .div64 dst src => Fields.ofTwoOperand 0x3 clsAlu64 0 dst src
  | .div32 dst src => Fields.ofTwoOperand 0x3 clsAlu32 0 dst src
  | .sdiv64 dst src => Fields.ofTwoOperand 0x3 clsAlu64 1 dst src
  | .sdiv32 dst src => Fields.ofTwoOperand 0x3 clsAlu32 1 dst src
  | .or64 dst src => Fields.ofTwoOperand 0x4 clsAlu64 0 dst src
  | .or32 dst src => Fields.ofTwoOperand 0x4 clsAlu32 0 dst src
  | .and64 dst src => Fields.ofTwoOperand 0x5 clsAlu64 0 dst src
  | .and32 dst src => Fields.ofTwoOperand 0x5 clsAlu32 0 dst src
  | .lsh64 dst src => Fields.ofTwoOperand 0x6 clsAlu64 0 dst src
  | .lsh32 dst src => Fields.ofTwoOperand 0x6 clsAlu32 0 dst src
  | .rsh64 dst src => Fields.ofTwoOperand 0x7 clsAlu64 0 dst src
  | .rsh32 dst src => Fields.ofTwoOperand 0x7 clsAlu32 0 dst src
  | .mod64 dst src => Fields.ofTwoOperand 0x9 clsAlu64 0 dst src
  | .mod32 dst src => Fields.ofTwoOperand 0x9 clsAlu32 0 dst src
  | .smod64 dst src => Fields.ofTwoOperand 0x9 clsAlu64 1 dst src
  | .smod32 dst src => Fields.ofTwoOperand 0x9 clsAlu32 1 dst src
  | .xor64 dst src => Fields.ofTwoOperand 0xa clsAlu64 0 dst src
  | .xor32 dst src => Fields.ofTwoOperand 0xa clsAlu32 0 dst src
  | .mov64 dst src => Fields.ofTwoOperand 0xb clsAlu64 0 dst src
  | .mov32 dst src => Fields.ofTwoOperand 0xb clsAlu32 0 dst src
  | .arsh64 dst src => Fields.ofTwoOperand 0xc clsAlu64 0 dst src
  | .arsh32 dst src => Fields.ofTwoOperand 0xc clsAlu32 0 dst src
  | .neg64 dst => ⟨opcodeOf 0x8 0 clsAlu64, fieldOfReg dst, 0, 0, 0⟩
  | .neg32 dst => ⟨opcodeOf 0x8 0 clsAlu32, fieldOfReg dst, 0, 0, 0⟩
  | .movsx8_64 dst src => ⟨opcodeOf 0xb 1 clsAlu64, fieldOfReg dst, fieldOfReg src, 8, 0⟩
  | .movsx16_64 dst src => ⟨opcodeOf 0xb 1 clsAlu64, fieldOfReg dst, fieldOfReg src, 16, 0⟩
  | .movsx32_64 dst src => ⟨opcodeOf 0xb 1 clsAlu64, fieldOfReg dst, fieldOfReg src, 32, 0⟩
  | .movsx8_32 dst src => ⟨opcodeOf 0xb 1 clsAlu32, fieldOfReg dst, fieldOfReg src, 8, 0⟩
  | .movsx16_32 dst src => ⟨opcodeOf 0xb 1 clsAlu32, fieldOfReg dst, fieldOfReg src, 16, 0⟩
  | .le16 dst => ⟨opcodeOf 0xd 0 clsAlu32, fieldOfReg dst, 0, 0, 16⟩
  | .le32 dst => ⟨opcodeOf 0xd 0 clsAlu32, fieldOfReg dst, 0, 0, 32⟩
  | .le64 dst => ⟨opcodeOf 0xd 0 clsAlu32, fieldOfReg dst, 0, 0, 64⟩
  | .be16 dst => ⟨opcodeOf 0xd 1 clsAlu32, fieldOfReg dst, 0, 0, 16⟩
  | .be32 dst => ⟨opcodeOf 0xd 1 clsAlu32, fieldOfReg dst, 0, 0, 32⟩
  | .be64 dst => ⟨opcodeOf 0xd 1 clsAlu32, fieldOfReg dst, 0, 0, 64⟩
  | .bswap16 dst => ⟨opcodeOf 0xd 0 clsAlu64, fieldOfReg dst, 0, 0, 16⟩
  | .bswap32 dst => ⟨opcodeOf 0xd 0 clsAlu64, fieldOfReg dst, 0, 0, 32⟩
  | .bswap64 dst => ⟨opcodeOf 0xd 0 clsAlu64, fieldOfReg dst, 0, 0, 64⟩
  | .ja off => ⟨opcodeOf 0x0 0 clsJmp, 0, 0, off, 0⟩
  | .ja32 imm => ⟨opcodeOf 0x0 0 clsJmp32, 0, 0, 0, imm⟩
  | .jeq64 dst src off => Fields.ofConditional 0x1 clsJmp dst src off
  | .jeq32 dst src off => Fields.ofConditional 0x1 clsJmp32 dst src off
  | .jgt64 dst src off => Fields.ofConditional 0x2 clsJmp dst src off
  | .jgt32 dst src off => Fields.ofConditional 0x2 clsJmp32 dst src off
  | .jge64 dst src off => Fields.ofConditional 0x3 clsJmp dst src off
  | .jge32 dst src off => Fields.ofConditional 0x3 clsJmp32 dst src off
  | .jset64 dst src off => Fields.ofConditional 0x4 clsJmp dst src off
  | .jset32 dst src off => Fields.ofConditional 0x4 clsJmp32 dst src off
  | .jne64 dst src off => Fields.ofConditional 0x5 clsJmp dst src off
  | .jne32 dst src off => Fields.ofConditional 0x5 clsJmp32 dst src off
  | .jsgt64 dst src off => Fields.ofConditional 0x6 clsJmp dst src off
  | .jsgt32 dst src off => Fields.ofConditional 0x6 clsJmp32 dst src off
  | .jsge64 dst src off => Fields.ofConditional 0x7 clsJmp dst src off
  | .jsge32 dst src off => Fields.ofConditional 0x7 clsJmp32 dst src off
  | .jlt64 dst src off => Fields.ofConditional 0xa clsJmp dst src off
  | .jlt32 dst src off => Fields.ofConditional 0xa clsJmp32 dst src off
  | .jle64 dst src off => Fields.ofConditional 0xb clsJmp dst src off
  | .jle32 dst src off => Fields.ofConditional 0xb clsJmp32 dst src off
  | .jslt64 dst src off => Fields.ofConditional 0xc clsJmp dst src off
  | .jslt32 dst src off => Fields.ofConditional 0xc clsJmp32 dst src off
  | .jsle64 dst src off => Fields.ofConditional 0xd clsJmp dst src off
  | .jsle32 dst src off => Fields.ofConditional 0xd clsJmp32 dst src off
  | .callHelper imm => ⟨opcodeOf 0x8 0 clsJmp, 0, 0, 0, imm⟩
  | .callLocal imm => ⟨opcodeOf 0x8 0 clsJmp, 0, 1, 0, imm⟩
  | .callBtf imm => ⟨opcodeOf 0x8 0 clsJmp, 0, 2, 0, imm⟩
  | .exit => ⟨opcodeOf 0x9 0 clsJmp, 0, 0, 0, 0⟩
  | .ldxw dst base off => ⟨memOpcodeOf modeMem sizeW clsLdx, fieldOfReg dst, fieldOfReg base, off, 0⟩
  | .ldxh dst base off => ⟨memOpcodeOf modeMem sizeH clsLdx, fieldOfReg dst, fieldOfReg base, off, 0⟩
  | .ldxb dst base off => ⟨memOpcodeOf modeMem sizeB clsLdx, fieldOfReg dst, fieldOfReg base, off, 0⟩
  | .ldxdw dst base off => ⟨memOpcodeOf modeMem sizeDw clsLdx, fieldOfReg dst, fieldOfReg base, off, 0⟩
  | .ldxsw dst base off => ⟨memOpcodeOf modeMemsx sizeW clsLdx, fieldOfReg dst, fieldOfReg base, off, 0⟩
  | .ldxsh dst base off => ⟨memOpcodeOf modeMemsx sizeH clsLdx, fieldOfReg dst, fieldOfReg base, off, 0⟩
  | .ldxsb dst base off => ⟨memOpcodeOf modeMemsx sizeB clsLdx, fieldOfReg dst, fieldOfReg base, off, 0⟩
  | .stw base off imm => ⟨memOpcodeOf modeMem sizeW clsSt, fieldOfReg base, 0, off, imm⟩
  | .sth base off imm => ⟨memOpcodeOf modeMem sizeH clsSt, fieldOfReg base, 0, off, imm⟩
  | .stb base off imm => ⟨memOpcodeOf modeMem sizeB clsSt, fieldOfReg base, 0, off, imm⟩
  | .stdw base off imm => ⟨memOpcodeOf modeMem sizeDw clsSt, fieldOfReg base, 0, off, imm⟩
  | .stxw base off src => ⟨memOpcodeOf modeMem sizeW clsStx, fieldOfReg base, fieldOfReg src, off, 0⟩
  | .stxh base off src => ⟨memOpcodeOf modeMem sizeH clsStx, fieldOfReg base, fieldOfReg src, off, 0⟩
  | .stxb base off src => ⟨memOpcodeOf modeMem sizeB clsStx, fieldOfReg base, fieldOfReg src, off, 0⟩
  | .stxdw base off src => ⟨memOpcodeOf modeMem sizeDw clsStx, fieldOfReg base, fieldOfReg src, off, 0⟩
  | .atomicAdd32 base off src => ⟨memOpcodeOf modeAtomic sizeW clsStx, fieldOfReg base, fieldOfReg src, off, 0x00⟩
  | .atomicAdd64 base off src => ⟨memOpcodeOf modeAtomic sizeDw clsStx, fieldOfReg base, fieldOfReg src, off, 0x00⟩
  | .atomicOr32 base off src => ⟨memOpcodeOf modeAtomic sizeW clsStx, fieldOfReg base, fieldOfReg src, off, 0x40⟩
  | .atomicOr64 base off src => ⟨memOpcodeOf modeAtomic sizeDw clsStx, fieldOfReg base, fieldOfReg src, off, 0x40⟩
  | .atomicAnd32 base off src => ⟨memOpcodeOf modeAtomic sizeW clsStx, fieldOfReg base, fieldOfReg src, off, 0x50⟩
  | .atomicAnd64 base off src => ⟨memOpcodeOf modeAtomic sizeDw clsStx, fieldOfReg base, fieldOfReg src, off, 0x50⟩
  | .atomicXor32 base off src => ⟨memOpcodeOf modeAtomic sizeW clsStx, fieldOfReg base, fieldOfReg src, off, 0xa0⟩
  | .atomicXor64 base off src => ⟨memOpcodeOf modeAtomic sizeDw clsStx, fieldOfReg base, fieldOfReg src, off, 0xa0⟩
  | .atomicFetchAdd32 base off src => ⟨memOpcodeOf modeAtomic sizeW clsStx, fieldOfReg base, fieldOfReg src, off, 0x01⟩
  | .atomicFetchAdd64 base off src => ⟨memOpcodeOf modeAtomic sizeDw clsStx, fieldOfReg base, fieldOfReg src, off, 0x01⟩
  | .atomicFetchOr32 base off src => ⟨memOpcodeOf modeAtomic sizeW clsStx, fieldOfReg base, fieldOfReg src, off, 0x41⟩
  | .atomicFetchOr64 base off src => ⟨memOpcodeOf modeAtomic sizeDw clsStx, fieldOfReg base, fieldOfReg src, off, 0x41⟩
  | .atomicFetchAnd32 base off src => ⟨memOpcodeOf modeAtomic sizeW clsStx, fieldOfReg base, fieldOfReg src, off, 0x51⟩
  | .atomicFetchAnd64 base off src => ⟨memOpcodeOf modeAtomic sizeDw clsStx, fieldOfReg base, fieldOfReg src, off, 0x51⟩
  | .atomicFetchXor32 base off src => ⟨memOpcodeOf modeAtomic sizeW clsStx, fieldOfReg base, fieldOfReg src, off, 0xa1⟩
  | .atomicFetchXor64 base off src => ⟨memOpcodeOf modeAtomic sizeDw clsStx, fieldOfReg base, fieldOfReg src, off, 0xa1⟩
  | .atomicXchg32 base off src => ⟨memOpcodeOf modeAtomic sizeW clsStx, fieldOfReg base, fieldOfReg src, off, 0xe1⟩
  | .atomicXchg64 base off src => ⟨memOpcodeOf modeAtomic sizeDw clsStx, fieldOfReg base, fieldOfReg src, off, 0xe1⟩
  | .atomicCmpxchg32 base off src => ⟨memOpcodeOf modeAtomic sizeW clsStx, fieldOfReg base, fieldOfReg src, off, 0xf1⟩
  | .atomicCmpxchg64 base off src => ⟨memOpcodeOf modeAtomic sizeDw clsStx, fieldOfReg base, fieldOfReg src, off, 0xf1⟩
  | .lddw dst imm _ => ⟨memOpcodeOf modeImm sizeDw clsLd, fieldOfReg dst, 0, 0, imm⟩
  | .ldMapFd dst imm => ⟨memOpcodeOf modeImm sizeDw clsLd, fieldOfReg dst, 1, 0, imm⟩
  | .ldMapValFd dst imm _ => ⟨memOpcodeOf modeImm sizeDw clsLd, fieldOfReg dst, 2, 0, imm⟩
  | .ldVarAddr dst imm => ⟨memOpcodeOf modeImm sizeDw clsLd, fieldOfReg dst, 3, 0, imm⟩
  | .ldCodeAddr dst imm => ⟨memOpcodeOf modeImm sizeDw clsLd, fieldOfReg dst, 4, 0, imm⟩
  | .ldMapIdx dst imm => ⟨memOpcodeOf modeImm sizeDw clsLd, fieldOfReg dst, 5, 0, imm⟩
  | .ldMapValIdx dst imm _ => ⟨memOpcodeOf modeImm sizeDw clsLd, fieldOfReg dst, 6, 0, imm⟩

/-- `next_imm` of a wide instruction; zero where it has none (30_encoding.md R82, R100). -/
def Instr.nextImm : Instr → BitVec 32
  | .lddw _ _ next | .ldMapValFd _ _ next | .ldMapValIdx _ _ next => next
  | .add64 _ _ | .add32 _ _ | .sub64 _ _ | .sub32 _ _ | .mul64 _ _ | .mul32 _ _ | .div64 _ _
  | .div32 _ _ | .sdiv64 _ _ | .sdiv32 _ _ | .or64 _ _ | .or32 _ _ | .and64 _ _ | .and32 _ _
  | .lsh64 _ _ | .lsh32 _ _ | .rsh64 _ _ | .rsh32 _ _ | .mod64 _ _ | .mod32 _ _ | .smod64 _ _
  | .smod32 _ _ | .xor64 _ _ | .xor32 _ _ | .mov64 _ _ | .mov32 _ _ | .arsh64 _ _ | .arsh32 _ _
  | .neg64 _ | .neg32 _ | .movsx8_64 _ _ | .movsx16_64 _ _ | .movsx32_64 _ _ | .movsx8_32 _ _
  | .movsx16_32 _ _ | .le16 _ | .le32 _ | .le64 _ | .be16 _ | .be32 _ | .be64 _ | .bswap16 _
  | .bswap32 _ | .bswap64 _ | .ja _ | .ja32 _ | .jeq64 _ _ _ | .jeq32 _ _ _ | .jgt64 _ _ _
  | .jgt32 _ _ _ | .jge64 _ _ _ | .jge32 _ _ _ | .jset64 _ _ _ | .jset32 _ _ _ | .jne64 _ _ _
  | .jne32 _ _ _ | .jsgt64 _ _ _ | .jsgt32 _ _ _ | .jsge64 _ _ _ | .jsge32 _ _ _ | .jlt64 _ _ _
  | .jlt32 _ _ _ | .jle64 _ _ _ | .jle32 _ _ _ | .jslt64 _ _ _ | .jslt32 _ _ _ | .jsle64 _ _ _
  | .jsle32 _ _ _ | .callHelper _ | .callLocal _ | .callBtf _ | .exit | .ldxw _ _ _
  | .ldxh _ _ _ | .ldxb _ _ _ | .ldxdw _ _ _ | .ldxsw _ _ _ | .ldxsh _ _ _ | .ldxsb _ _ _
  | .stw _ _ _ | .sth _ _ _ | .stb _ _ _ | .stdw _ _ _ | .stxw _ _ _ | .stxh _ _ _
  | .stxb _ _ _ | .stxdw _ _ _ | .atomicAdd32 _ _ _ | .atomicAdd64 _ _ _ | .atomicOr32 _ _ _
  | .atomicOr64 _ _ _ | .atomicAnd32 _ _ _ | .atomicAnd64 _ _ _ | .atomicXor32 _ _ _
  | .atomicXor64 _ _ _ | .atomicFetchAdd32 _ _ _ | .atomicFetchAdd64 _ _ _
  | .atomicFetchOr32 _ _ _ | .atomicFetchOr64 _ _ _ | .atomicFetchAnd32 _ _ _
  | .atomicFetchAnd64 _ _ _ | .atomicFetchXor32 _ _ _ | .atomicFetchXor64 _ _ _
  | .atomicXchg32 _ _ _ | .atomicXchg64 _ _ _ | .atomicCmpxchg32 _ _ _ | .atomicCmpxchg64 _ _ _
  | .ldMapFd _ _ | .ldVarAddr _ _ | .ldCodeAddr _ _ | .ldMapIdx _ _ => 0

/-- The slots of an instruction in the byte order of the host (30_encoding.md R81, R82). -/
def encode (e : Endian) (i : Instr) : List Slot :=
  let first := i.fields.toSlot e
  if i.wide then [first, (Fields.mk 0 0 0 0 i.nextImm).toSlot e] else [first]

/-! ### Words numbered as the opcode table numbers them -/

/-- The slot whose canonical word is `w`, laid out as a host of byte order `e` stores it
(30_encoding.md R85). -/
def slotOfWord (e : Endian) (w : BitVec 64) : Slot := (Fields.ofWord w).toSlot e

/-- The two slots of an instruction whose lowest `nbits` bits are those of `w` and whose other bits
are zero: the first slot is bits 63 to 0, the second bits 127 to 64 (30_encoding.md R85). -/
def slotsOfTableWord (e : Endian) (nbits w : Nat) : Slot × Slot :=
  let v := w % 2 ^ nbits
  (slotOfWord e (BitVec.ofNat 64 v), slotOfWord e (BitVec.ofNat 64 (v / 2 ^ 64)))

/-- The instruction the decoder reads from the bits of a row of the opcode table, with the byte
order and the groups of `Params.default`. -/
def decodeTableWord (nbits w : Nat) : Option Instr :=
  let slots := slotsOfTableWord Params.default.hostEndian nbits w
  match decode Params.default.hostEndian Params.default.groups slots.1 (some slots.2) with
  | .ok i => some i
  | .error _ => none

end Sys2Proof
end

