-- ==== Sys2Proof/Machine/Fetch.lean ====
section
/-! DEFINITION. Fetching the instruction at the program counter (30_encoding.md R96), and placing
slots in a program. -/

namespace Sys2Proof.Machine

/-- The fault a decode error is (60_exceptions.md R302, R310). -/
def faultOfDecode (pc : Nat) : DecodeError → Fault
  | .illegalEncoding => .illegalEncoding pc
  | .legacyPacketAccess => .unsupported pc .legacyPacketAccess

/-- The instruction at `pc`, or the fault of step 1 to 8 of 30_encoding.md R96. -/
def fetch (s : State) : Except Fault Instr :=
  match s.program[s.pc]? with
  | none => .error (.pcOutOfRange s.pc s.pc)
  | some first =>
    match decode s.params.hostEndian s.params.groups first s.program[s.pc + 1]? with
    | .ok i => .ok i
    | .error e => .error (faultOfDecode s.pc e)

/-- A slot of zeros. It spells no instruction (44_immediate64.md R289). -/
def zeroSlot : Slot := ⟨0, 0, 0, 0, 0, 0, 0, 0⟩

/-- The program with the two slots at indices `k` and `k + 1`; slots missing before them are zero. -/
def placeSlots (program : List Slot) (k : Nat) (a b : Slot) : List Slot :=
  program.take k ++ List.replicate (k - program.length) zeroSlot ++ [a, b] ++ program.drop (k + 2)

end Sys2Proof.Machine
end

