-- ==== Sys2Proof/Machine/Step.lean ====
section
/-! DEFINITION. One step of the machine (30_encoding.md R96; 70_reset_and_hazards.md R360), and the
state in which the next step runs a given word. -/

namespace Sys2Proof.Machine

/-- One step: a running machine fetches the instruction at `pc` and executes it. "`Exited` and `Faulted`
are terminal: no instruction executes after them" (10_state.md R33): an exited machine stays as it
is, a faulted one answers its fault again (log 11). -/
def step (s : State) : Host.Outcome State Fault Refusal :=
  match s.status with
  | .exited _ => .next s
  | .faulted f => .fault f
  | .running =>
    match fetch s with
    | .ok i => exec i s
    | .error f => .fault f

/-- `s` with the instruction of a word of the opcode table at `pc` (log 8, log 14): its slot and the
slot after it are placed in the program, and the machine is running. -/
def State.withFetchWord (s : State) (nbits w : Nat) : State :=
  let slots := slotsOfTableWord s.params.hostEndian nbits w
  { s with program := placeSlots s.program s.pc slots.1 slots.2, status := .running }

end Sys2Proof.Machine
end

