-- ==== Sys2Proof/Safety.lean ====
section
/-! DEFINITION. What counts as a good run, and the terms the statements are written in: the families of
instructions, operands, jump targets, the checks and the bytes of an access, what a step leaves
unchanged, and the invariant of the machine. They are written from the rules, not from the meanings. -/

namespace Sys2Proof

/-! ### The families of instructions -/

/-- The families of spec/opcode_table.json, the calls by kind and CMPXCHG apart. -/
inductive Family where
  | arithmetic
  | jump
  | helperCall
  | localCall
  | exit
  | load
  | store
  | atomic
  | compareExchange
  | imm64
deriving DecidableEq, Repr

/-- The family of each instruction. -/
def Instr.family : Instr → Family
  | .add64 _ _ | .add32 _ _ | .sub64 _ _ | .sub32 _ _ | .mul64 _ _ | .mul32 _ _ | .div64 _ _
  | .div32 _ _ | .sdiv64 _ _ | .sdiv32 _ _ | .or64 _ _ | .or32 _ _ | .and64 _ _ | .and32 _ _
  | .lsh64 _ _ | .lsh32 _ _ | .rsh64 _ _ | .rsh32 _ _ | .mod64 _ _ | .mod32 _ _ | .smod64 _ _
  | .smod32 _ _ | .xor64 _ _ | .xor32 _ _ | .mov64 _ _ | .mov32 _ _ | .arsh64 _ _ | .arsh32 _ _
  | .neg64 _ | .neg32 _ | .movsx8_64 _ _ | .movsx16_64 _ _ | .movsx32_64 _ _ | .movsx8_32 _ _
  | .movsx16_32 _ _ | .le16 _ | .le32 _ | .le64 _ | .be16 _ | .be32 _ | .be64 _ | .bswap16 _
  | .bswap32 _ | .bswap64 _ => .arithmetic
  | .ja _ | .ja32 _ | .jeq64 _ _ _ | .jeq32 _ _ _ | .jgt64 _ _ _ | .jgt32 _ _ _ | .jge64 _ _ _
  | .jge32 _ _ _ | .jset64 _ _ _ | .jset32 _ _ _ | .jne64 _ _ _ | .jne32 _ _ _ | .jsgt64 _ _ _
  | .jsgt32 _ _ _ | .jsge64 _ _ _ | .jsge32 _ _ _ | .jlt64 _ _ _ | .jlt32 _ _ _ | .jle64 _ _ _
  | .jle32 _ _ _ | .jslt64 _ _ _ | .jslt32 _ _ _ | .jsle64 _ _ _ | .jsle32 _ _ _ => .jump
  | .callHelper _ | .callBtf _ => .helperCall
  | .callLocal _ => .localCall
  | .exit => .exit
  | .ldxw _ _ _ | .ldxh _ _ _ | .ldxb _ _ _ | .ldxdw _ _ _ | .ldxsw _ _ _ | .ldxsh _ _ _
  | .ldxsb _ _ _ => .load
  | .stw _ _ _ | .sth _ _ _ | .stb _ _ _ | .stdw _ _ _ | .stxw _ _ _ | .stxh _ _ _
  | .stxb _ _ _ | .stxdw _ _ _ => .store
  | .atomicAdd32 _ _ _ | .atomicAdd64 _ _ _ | .atomicOr32 _ _ _ | .atomicOr64 _ _ _
  | .atomicAnd32 _ _ _ | .atomicAnd64 _ _ _ | .atomicXor32 _ _ _ | .atomicXor64 _ _ _
  | .atomicFetchAdd32 _ _ _ | .atomicFetchAdd64 _ _ _ | .atomicFetchOr32 _ _ _
  | .atomicFetchOr64 _ _ _ | .atomicFetchAnd32 _ _ _ | .atomicFetchAnd64 _ _ _
  | .atomicFetchXor32 _ _ _ | .atomicFetchXor64 _ _ _ | .atomicXchg32 _ _ _
  | .atomicXchg64 _ _ _ => .atomic
  | .atomicCmpxchg32 _ _ _ | .atomicCmpxchg64 _ _ _ => .compareExchange
  | .lddw _ _ _ | .ldMapFd _ _ | .ldMapValFd _ _ _ | .ldVarAddr _ _ | .ldCodeAddr _ _
  | .ldMapIdx _ _ | .ldMapValIdx _ _ _ => .imm64

/-- Where an instruction accesses memory: the base register, the displacement and how many bytes
(20_memory.md R52, R58). -/
structure MemOperand where
  base : Reg
  off : BitVec 16
  size : Nat
deriving DecidableEq, Repr

/-- The memory operand of each instruction that has one: loads, stores and atomics. -/
def Instr.memOperand : Instr → Option MemOperand
  | .ldxb _ base off | .ldxsb _ base off | .stb base off _ | .stxb base off _
    => some ⟨base, off, 1⟩
  | .ldxh _ base off | .ldxsh _ base off | .sth base off _ | .stxh base off _
    => some ⟨base, off, 2⟩
  | .ldxw _ base off | .ldxsw _ base off | .stw base off _ | .stxw base off _
  | .atomicAdd32 base off _ | .atomicOr32 base off _ | .atomicAnd32 base off _
  | .atomicXor32 base off _ | .atomicFetchAdd32 base off _ | .atomicFetchOr32 base off _
  | .atomicFetchAnd32 base off _ | .atomicFetchXor32 base off _ | .atomicXchg32 base off _
  | .atomicCmpxchg32 base off _ => some ⟨base, off, 4⟩
  | .ldxdw _ base off | .stdw base off _ | .stxdw base off _ | .atomicAdd64 base off _
  | .atomicOr64 base off _ | .atomicAnd64 base off _ | .atomicXor64 base off _
  | .atomicFetchAdd64 base off _ | .atomicFetchOr64 base off _ | .atomicFetchAnd64 base off _
  | .atomicFetchXor64 base off _ | .atomicXchg64 base off _ | .atomicCmpxchg64 base off _
    => some ⟨base, off, 8⟩
  | .add64 _ _ | .add32 _ _ | .sub64 _ _ | .sub32 _ _ | .mul64 _ _ | .mul32 _ _ | .div64 _ _
  | .div32 _ _ | .sdiv64 _ _ | .sdiv32 _ _ | .or64 _ _ | .or32 _ _ | .and64 _ _ | .and32 _ _
  | .lsh64 _ _ | .lsh32 _ _ | .rsh64 _ _ | .rsh32 _ _ | .mod64 _ _ | .mod32 _ _ | .smod64 _ _
  | .smod32 _ _ | .xor64 _ _ | .xor32 _ _ | .mov64 _ _ | .mov32 _ _ | .arsh64 _ _ | .arsh32 _ _
  | .neg64 _ | .neg32 _ | .movsx8_64 _ _ | .movsx16_64 _ _ | .movsx32_64 _ _ | .movsx8_32 _ _
  | .movsx16_32 _ _ | .le16 _ | .le32 _ | .le64 _ | .be16 _ | .be32 _ | .be64 _ | .bswap16 _
  | .bswap32 _ | .bswap64 _ | .ja _ | .ja32 _ | .jeq64 _ _ _ | .jeq32 _ _ _ | .jgt64 _ _ _
  | .jgt32 _ _ _ | .jge64 _ _ _ | .jge32 _ _ _ | .jset64 _ _ _ | .jset32 _ _ _ | .jne64 _ _ _
  | .jne32 _ _ _ | .jsgt64 _ _ _ | .jsgt32 _ _ _ | .jsge64 _ _ _ | .jsge32 _ _ _ | .jlt64 _ _ _
  | .jlt32 _ _ _ | .jle64 _ _ _ | .jle32 _ _ _ | .jslt64 _ _ _ | .jslt32 _ _ _ | .jsle64 _ _ _
  | .jsle32 _ _ _ | .callHelper _ | .callLocal _ | .callBtf _ | .exit | .lddw _ _ _
  | .ldMapFd _ _ | .ldMapValFd _ _ _ | .ldVarAddr _ _ | .ldCodeAddr _ _ | .ldMapIdx _ _
  | .ldMapValIdx _ _ _ => none

/-- The opcode bytes that select an instruction, by class: the two tables of 30_encoding.md R97. -/
def definedOpcodes : List (BitVec 8) :=
  -- ALU
  [0x04, 0x0c, 0x14, 0x1c, 0x24, 0x2c, 0x34, 0x3c, 0x44, 0x4c, 0x54, 0x5c, 0x64, 0x6c, 0x74, 0x7c,
    0x84, 0x94, 0x9c, 0xa4, 0xac, 0xb4, 0xbc, 0xc4, 0xcc, 0xd4, 0xdc] ++
  -- ALU64
  [0x07, 0x0f, 0x17, 0x1f, 0x27, 0x2f, 0x37, 0x3f, 0x47, 0x4f, 0x57, 0x5f, 0x67, 0x6f, 0x77, 0x7f,
    0x87, 0x97, 0x9f, 0xa7, 0xaf, 0xb7, 0xbf, 0xc7, 0xcf, 0xd7] ++
  -- JMP
  [0x05, 0x15, 0x1d, 0x25, 0x2d, 0x35, 0x3d, 0x45, 0x4d, 0x55, 0x5d, 0x65, 0x6d, 0x75, 0x7d, 0x85,
    0x95, 0xa5, 0xad, 0xb5, 0xbd, 0xc5, 0xcd, 0xd5, 0xdd] ++
  -- JMP32
  [0x06, 0x16, 0x1e, 0x26, 0x2e, 0x36, 0x3e, 0x46, 0x4e, 0x56, 0x5e, 0x66, 0x6e, 0x76, 0x7e, 0xa6,
    0xae, 0xb6, 0xbe, 0xc6, 0xce, 0xd6, 0xde] ++
  -- LD, LDX, ST, STX
  [0x18, 0x61, 0x69, 0x71, 0x79, 0x81, 0x89, 0x91, 0x62, 0x6a, 0x72, 0x7a, 0x63, 0x6b, 0x73, 0x7b,
    0xc3, 0xdb]

/-- An opcode byte of a load or store class with mode ABS or IND (30_encoding.md R96 step 4;
44_immediate64.md R290, R291). -/
def LegacyOpcode (op : BitVec 8) : Prop :=
  (op.extractLsb' 0 3).toNat < 4 ∧ (op.extractLsb' 5 3 = 1 ∨ op.extractLsb' 5 3 = 2)

end Sys2Proof

namespace Sys2Proof.Machine

/-! ### Operands -/

/-- The source operand `S64` is `b` (40_arithmetic.md R120; 41_jump.md R180). -/
def Source64 (s : State) (src : Src) (b : Word) : Prop :=
  match src with
  | .imm v => b = v.signExtend 64
  | .reg r => s.reg r = .value b

/-- The source operand `S32` is `b` (40_arithmetic.md R121; 41_jump.md R180). -/
def Source32 (s : State) (src : Src) (b : Word32) : Prop :=
  match src with
  | .imm v => b = v
  | .reg r => ∃ x, s.reg r = .value x ∧ b = x.extractLsb' 0 32

/-- The source operand is a register that holds no value (10_state.md R24). -/
def SourceMissing (s : State) (src : Src) (r : Reg) : Prop := src = .reg r ∧ s.reg r = .noValue

/-! ### Rows: what one instruction of a shape does, in every state

Each row gives the fields of the instruction's first slot and its outcome in every state: the next
state where the operands allow one, else the fault, in the order of 60_exceptions.md R311. -/

/-- The two encodings of an instruction with a K and an X form: the opcode byte of each and the value
of the offset field (30_encoding.md R97, R100). -/
def TwoFormFields (c : Reg → Src → Instr) (opK opX : BitVec 8) (off : BitVec 16) : Prop :=
  (∀ dst v, (c dst (.imm v)).fields = ⟨opK, fieldOfReg dst, 0, off, v⟩) ∧
  (∀ dst r, (c dst (.reg r)).fields = ⟨opX, fieldOfReg dst, fieldOfReg r, off, 0⟩)

/-- A two-operand instruction of class ALU64 that computes `op`, which may use the parameters of the run
(40_arithmetic.md R120, R126). -/
def Alu64Row (c : Reg → Src → Instr) (opK opX : BitVec 8) (off : BitVec 16)
    (op : Params → Word → Word → Word) : Prop :=
  TwoFormFields c opK opX off ∧ ∀ (dst : Reg) (src : Src) (s : State),
    (∀ a b, s.reg dst = .value a → Source64 s src b →
      exec (c dst src) s = .next ((s.writeReg dst (op s.params a b)).advance 1)) ∧
    (s.reg dst = .noValue → exec (c dst src) s = .fault (.uninitRegister s.pc dst)) ∧
    (∀ a r, s.reg dst = .value a → SourceMissing s src r →
      exec (c dst src) s = .fault (.uninitRegister s.pc r))

/-- A two-operand instruction of class ALU that computes `op` on the low halves and writes the 32-bit
result zero-extended (40_arithmetic.md R121, R126). -/
def Alu32Row (c : Reg → Src → Instr) (opK opX : BitVec 8) (off : BitVec 16)
    (op : Params → Word32 → Word32 → Word32) : Prop :=
  TwoFormFields c opK opX off ∧ ∀ (dst : Reg) (src : Src) (s : State),
    (∀ a b, s.reg dst = .value a → Source32 s src b →
      exec (c dst src) s =
        .next ((s.writeReg dst ((op s.params (a.extractLsb' 0 32) b).zeroExtend 64)).advance 1)) ∧
    (s.reg dst = .noValue → exec (c dst src) s = .fault (.uninitRegister s.pc dst)) ∧
    (∀ a r, s.reg dst = .value a → SourceMissing s src r →
      exec (c dst src) s = .fault (.uninitRegister s.pc r))

/-- An instruction that replaces its destination by a function of its value (40_arithmetic.md R152,
R170): `imm` holds the number given. -/
def UnaryRow (c : Reg → Instr) (opcode : BitVec 8) (imm : BitVec 32) (f : Params → Word → Word) :
    Prop :=
  ∀ (dst : Reg) (s : State),
    (c dst).fields = ⟨opcode, fieldOfReg dst, 0, 0, imm⟩ ∧
    (∀ a, s.reg dst = .value a → exec (c dst) s = .next ((s.writeReg dst (f s.params a)).advance 1)) ∧
    (s.reg dst = .noValue → exec (c dst) s = .fault (.uninitRegister s.pc dst))

/-- MOV of class ALU64: the destination is not read (40_arithmetic.md R161). -/
def Mov64Row (c : Reg → Src → Instr) (opK opX : BitVec 8) : Prop :=
  TwoFormFields c opK opX 0 ∧ ∀ (dst : Reg) (src : Src) (s : State),
    (∀ b, Source64 s src b → exec (c dst src) s = .next ((s.writeReg dst b).advance 1)) ∧
    (∀ r, SourceMissing s src r → exec (c dst src) s = .fault (.uninitRegister s.pc r))

/-- MOV of class ALU: the destination is not read, the upper half becomes zero
(40_arithmetic.md R162). -/
def Mov32Row (c : Reg → Src → Instr) (opK opX : BitVec 8) : Prop :=
  TwoFormFields c opK opX 0 ∧ ∀ (dst : Reg) (src : Src) (s : State),
    (∀ b, Source32 s src b →
      exec (c dst src) s = .next ((s.writeReg dst (b.zeroExtend 64)).advance 1)) ∧
    (∀ r, SourceMissing s src r → exec (c dst src) s = .fault (.uninitRegister s.pc r))

/-- A sign-extending move (40_arithmetic.md R160): the destination is not read. -/
def MoveRow (c : Reg → Reg → Instr) (opcode : BitVec 8) (off : BitVec 16) (f : Word → Word) : Prop :=
  ∀ (dst src : Reg) (s : State),
    (c dst src).fields = ⟨opcode, fieldOfReg dst, fieldOfReg src, off, 0⟩ ∧
    (∀ v, s.reg src = .value v → exec (c dst src) s = .next ((s.writeReg dst (f v)).advance 1)) ∧
    (s.reg src = .noValue → exec (c dst src) s = .fault (.uninitRegister s.pc src))

/-! ### Control transfers (41_jump.md R181) -/

/-- `Start(k)`: the sweep from slot 0 reaches slot `k` as the first slot of an instruction
(41_jump.md R181). -/
inductive Start (program : List Slot) : Nat → Prop where
  | first : Start program 0
  | wide {k : Nat} {sl : Slot} : Start program k → program[k]? = some sl → sl.b0 = 0x18 →
      Start program (k + 2)
  | basic {k : Nat} {sl : Slot} : Start program k → program[k]? = some sl → sl.b0 ≠ 0x18 →
      Start program (k + 1)

/-- `SecondSlot(k)` as the sweep defines it: the slot after a start whose opcode byte is 0x18
(41_jump.md R181). -/
def IsSecondSlot (program : List Slot) (k : Nat) : Prop :=
  ∃ j sl, k = j + 1 ∧ Start program j ∧ program[j]? = some sl ∧ sl.b0 = 0x18

/-- The outcome `o` is that of `SetPc(t)` in `s` (41_jump.md R181): `PcOutOfRange`, `JumpIntoWide`, or
the state with only `pc` changed. -/
def SetPc (s : State) (t : Int) (o : Result) : Prop :=
  (t < 0 ∨ (s.program.length : Int) ≤ t → o = .fault (.pcOutOfRange s.pc t)) ∧
  (∀ k : Nat, t = k → k < s.program.length → secondSlot s.program k = true →
    o = .fault (.jumpIntoWide s.pc k)) ∧
  (∀ k : Nat, t = k → k < s.program.length → secondSlot s.program k = false →
    o = .next { s with pc := k })

/-- The two encodings of a conditional jump (30_encoding.md R97, R100). R100 leaves `src_reg` of the K
form free; that it is written as zero is the model's (DESIGN CHOICE, log 17). -/
def JumpFields (c : Reg → Src → BitVec 16 → Instr) (opK opX : BitVec 8) : Prop :=
  (∀ dst v off, (c dst (.imm v) off).fields = ⟨opK, fieldOfReg dst, 0, off, v⟩) ∧
  (∀ dst r off, (c dst (.reg r) off).fields = ⟨opX, fieldOfReg dst, fieldOfReg r, off, 0⟩)

/-- A conditional jump of class JMP on the condition `cond` (41_jump.md R180, R182). -/
def Jump64Row (c : Reg → Src → BitVec 16 → Instr) (opK opX : BitVec 8)
    (cond : Word → Word → Prop) : Prop :=
  JumpFields c opK opX ∧ ∀ (dst : Reg) (src : Src) (off : BitVec 16) (s : State),
    (∀ a b, s.reg dst = .value a → Source64 s src b →
      (cond a b → SetPc s ((s.pc : Int) + 1 + off.toInt) (exec (c dst src off) s)) ∧
      (¬cond a b → exec (c dst src off) s = .next { s with pc := s.pc + 1 })) ∧
    (s.reg dst = .noValue → exec (c dst src off) s = .fault (.uninitRegister s.pc dst)) ∧
    (∀ a r, s.reg dst = .value a → SourceMissing s src r →
      exec (c dst src off) s = .fault (.uninitRegister s.pc r))

/-- A conditional jump of class JMP32 on the condition `cond` of the low halves (41_jump.md R180,
R182). -/
def Jump32Row (c : Reg → Src → BitVec 16 → Instr) (opK opX : BitVec 8)
    (cond : Word32 → Word32 → Prop) : Prop :=
  JumpFields c opK opX ∧ ∀ (dst : Reg) (src : Src) (off : BitVec 16) (s : State),
    (∀ a b, s.reg dst = .value a → Source32 s src b →
      (cond (a.extractLsb' 0 32) b →
        SetPc s ((s.pc : Int) + 1 + off.toInt) (exec (c dst src off) s)) ∧
      (¬cond (a.extractLsb' 0 32) b →
        exec (c dst src off) s = .next { s with pc := s.pc + 1 })) ∧
    (s.reg dst = .noValue → exec (c dst src off) s = .fault (.uninitRegister s.pc dst)) ∧
    (∀ a r, s.reg dst = .value a → SourceMissing s src r →
      exec (c dst src off) s = .fault (.uninitRegister s.pc r))

/-! ### Memory (20_memory.md R51 to R57) -/

/-- The address lies in one of the ranges (20_memory.md R51). -/
def InRanges (rs : List AddrRange) (a : Nat) : Prop :=
  ∃ r ∈ rs, r.base ≤ a ∧ a < r.base + r.size

/-- Every byte of `[a, a + n)` lies in one of the ranges. -/
def AllIn (rs : List AddrRange) (a n : Nat) : Prop := ∀ k, k < n → InRanges rs (a + k)

/-- The alignment line of R55 and R56 passes: the policy is bytewise, or `n` divides the address
(20_memory.md R57). -/
def AlignedFor (s : State) (a : Word) (n : Nat) : Prop :=
  s.params.alignPolicy = .bytewise ∨ a.toNat % n = 0

/-- A plain access passes every check of R55 or R56 (20_memory.md). -/
def PlainAllowed (s : State) (rs : List AddrRange) (a : Word) (n : Nat) : Prop :=
  a.toNat + n ≤ 2 ^ 64 ∧ AlignedFor s a n ∧ AllIn rs a.toNat n

/-- The outcome of a plain access that fails a check: the first of R55 or R56 that fails
(20_memory.md). -/
def PlainFaults (s : State) (rs : List AddrRange) (kind : Access) (a : Word) (n : Nat) (o : Result) :
    Prop :=
  (2 ^ 64 < a.toNat + n → o = .fault (.memAccess s.pc a n kind)) ∧
  (a.toNat + n ≤ 2 ^ 64 → ¬AlignedFor s a n → o = .fault (.misaligned s.pc a n)) ∧
  (a.toNat + n ≤ 2 ^ 64 → AlignedFor s a n → ¬AllIn rs a.toNat n →
    o = .fault (.memAccess s.pc a n kind))

/-- An atomic access passes every check of 43_atomic.md R251, under either alignment policy. -/
def AtomicAllowed (s : State) (a : Word) (n : Nat) : Prop :=
  a.toNat % n = 0 ∧ a.toNat + n ≤ 2 ^ 64 ∧ AllIn s.memMap.readable a.toNat n ∧
    AllIn s.memMap.writable a.toNat n

/-- The outcome of an atomic access that fails a check: the first of 43_atomic.md R251 that fails. -/
def AtomicFaults (s : State) (a : Word) (n : Nat) (o : Result) : Prop :=
  (a.toNat % n ≠ 0 → o = .fault (.misaligned s.pc a n)) ∧
  (a.toNat % n = 0 → 2 ^ 64 < a.toNat + n ∨ ¬AllIn s.memMap.readable a.toNat n →
    o = .fault (.memAccess s.pc a n .read)) ∧
  (a.toNat % n = 0 → a.toNat + n ≤ 2 ^ 64 → AllIn s.memMap.readable a.toNat n →
    ¬AllIn s.memMap.writable a.toNat n → o = .fault (.memAccess s.pc a n .write))

/-- The address of the byte `v[8k+7:8k]` of an `n`-byte value at `a` (20_memory.md R53). -/
def byteAddress (e : Endian) (a n k : Nat) : Nat :=
  match e with
  | .le => a + k
  | .be => a + n - 1 - k

/-- The bytes from address `a` on spell the value `v` in the host's order (20_memory.md R53). -/
def Spells (s : State) (a : Nat) {w : Nat} (v : BitVec w) : Prop :=
  ∀ k, k < w / 8 →
    s.byteAt (byteAddress s.params.hostEndian a (w / 8) k) = v.extractLsb' (8 * k) 8

/-! ### What a step leaves unchanged -/

/-- Every register outside the list holds what it held. -/
def KeepsRegsBut (s t : State) (rs : List Reg) : Prop := ∀ r, r ∉ rs → t.reg r = s.reg r

/-- Every byte of memory reads as it read. -/
def KeepsBytes (s t : State) : Prop := ∀ x, t.byteAt x = s.byteAt x

/-- Every byte of memory outside `[a, a + n)` reads as it read. -/
def KeepsBytesOutside (s t : State) (a n : Nat) : Prop :=
  ∀ x, x < a ∨ a + n ≤ x → t.byteAt x = s.byteAt x

/-- The program, the parameters, the run status, MEMMAP and the model's own fields are as they were. -/
def KeepsRun (s t : State) : Prop :=
  t.program = s.program ∧ t.params = s.params ∧ t.status = s.status ∧ t.memMap = s.memMap ∧
    t.answers = s.answers ∧ t.draws = s.draws ∧ t.memSeed = s.memSeed

/-! ### Rows of loads, stores and atomics -/

/-- A load of `w` bits that extends the value by `ext` (42_load_store.md R222). -/
def LoadRow (c : Reg → Reg → BitVec 16 → Instr) (opcode : BitVec 8) (w : Nat)
    (ext : BitVec w → Word) : Prop :=
  ∀ (dst base : Reg) (off : BitVec 16) (s : State),
    (c dst base off).fields = ⟨opcode, fieldOfReg dst, fieldOfReg base, off, 0⟩ ∧
    (s.reg base = .noValue → exec (c dst base off) s = .fault (.uninitRegister s.pc base)) ∧
    (∀ b, s.reg base = .value b →
      (∀ v : BitVec w, PlainAllowed s s.memMap.readable (b + off.signExtend 64) (w / 8) →
        Spells s (b + off.signExtend 64).toNat v →
        exec (c dst base off) s = .next ((s.writeReg dst (ext v)).advance 1)) ∧
      PlainFaults s s.memMap.readable .read (b + off.signExtend 64) (w / 8)
        (exec (c dst base off) s))

/-- The outcome `o` is that of storing the `w`-bit value `v` at `a` and going on
(20_memory.md R56; 42_load_store.md R223): the bytes spell `v`, nothing else but `pc` changes, or the
access faults. -/
def Stores (s : State) (a : Word) {w : Nat} (v : BitVec w) (o : Result) : Prop :=
  (PlainAllowed s s.memMap.writable a (w / 8) →
    ∃ t, o = .next t ∧ Spells t a.toNat v ∧ KeepsBytesOutside s t a.toNat (w / 8) ∧
      t.regs = s.regs ∧ t.callStack = s.callStack ∧ t.pc = s.pc + 1 ∧ KeepsRun s t) ∧
  PlainFaults s s.memMap.writable .write a (w / 8) o

/-- A store of the low `w` bits of an immediate (42_load_store.md R223). -/
def StoreImmRow (c : Reg → BitVec 16 → BitVec 32 → Instr) (opcode : BitVec 8) (w : Nat) : Prop :=
  ∀ (base : Reg) (off : BitVec 16) (imm : BitVec 32) (s : State),
    (c base off imm).fields = ⟨opcode, fieldOfReg base, 0, off, imm⟩ ∧
    (s.reg base = .noValue → exec (c base off imm) s = .fault (.uninitRegister s.pc base)) ∧
    (∀ b, s.reg base = .value b →
      Stores s (b + off.signExtend 64) ((imm.signExtend 64).extractLsb' 0 w)
        (exec (c base off imm) s))

/-- A store of the low `w` bits of a register (42_load_store.md R223). -/
def StoreRegRow (c : Reg → BitVec 16 → Reg → Instr) (opcode : BitVec 8) (w : Nat) : Prop :=
  ∀ (base : Reg) (off : BitVec 16) (src : Reg) (s : State),
    (c base off src).fields = ⟨opcode, fieldOfReg base, fieldOfReg src, off, 0⟩ ∧
    (s.reg base = .noValue → exec (c base off src) s = .fault (.uninitRegister s.pc base)) ∧
    (∀ b, s.reg base = .value b → s.reg src = .noValue →
      exec (c base off src) s = .fault (.uninitRegister s.pc src)) ∧
    (∀ b v, s.reg base = .value b → s.reg src = .value v →
      Stores s (b + off.signExtend 64) (v.extractLsb' 0 w) (exec (c base off src) s))

/-- The registers of an atomic instruction are read in order: base, source (43_atomic.md R251;
60_exceptions.md R311). -/
def AtomicReads (c : Reg → BitVec 16 → Reg → Instr) (opcode : BitVec 8) (imm : BitVec 32) : Prop :=
  ∀ (base : Reg) (off : BitVec 16) (src : Reg) (s : State),
    (c base off src).fields = ⟨opcode, fieldOfReg base, fieldOfReg src, off, imm⟩ ∧
    (s.reg base = .noValue → exec (c base off src) s = .fault (.uninitRegister s.pc base)) ∧
    (∀ b, s.reg base = .value b → s.reg src = .noValue →
      exec (c base off src) s = .fault (.uninitRegister s.pc src))

/-- An atomic instruction without FETCH that replaces the old value by `op old operand`
(43_atomic.md R251, R252): no register changes. -/
def AtomicRow (c : Reg → BitVec 16 → Reg → Instr) (opcode : BitVec 8) (imm : BitVec 32) (w : Nat)
    (op : BitVec w → BitVec w → BitVec w) : Prop :=
  AtomicReads c opcode imm ∧
  ∀ (base : Reg) (off : BitVec 16) (src : Reg) (s : State) (b v : Word),
    s.reg base = .value b → s.reg src = .value v →
    (∀ old : BitVec w, AtomicAllowed s (b + off.signExtend 64) (w / 8) →
      Spells s (b + off.signExtend 64).toNat old →
      ∃ t, exec (c base off src) s = .next t ∧
        Spells t (b + off.signExtend 64).toNat (op old (v.extractLsb' 0 w)) ∧
        KeepsBytesOutside s t (b + off.signExtend 64).toNat (w / 8) ∧
        t.regs = s.regs ∧ t.callStack = s.callStack ∧ t.pc = s.pc + 1 ∧ KeepsRun s t) ∧
    AtomicFaults s (b + off.signExtend 64) (w / 8) (exec (c base off src) s)

/-- An atomic instruction that also overwrites `src` with the old value, zero-extended
(43_atomic.md R251, R252): the FETCH forms and XCHG. -/
def AtomicFetchRow (c : Reg → BitVec 16 → Reg → Instr) (opcode : BitVec 8) (imm : BitVec 32)
    (w : Nat) (op : BitVec w → BitVec w → BitVec w) : Prop :=
  AtomicReads c opcode imm ∧
  ∀ (base : Reg) (off : BitVec 16) (src : Reg) (s : State) (b v : Word),
    s.reg base = .value b → s.reg src = .value v →
    (∀ old : BitVec w, AtomicAllowed s (b + off.signExtend 64) (w / 8) →
      Spells s (b + off.signExtend 64).toNat old →
      ∃ t, exec (c base off src) s = .next t ∧
        Spells t (b + off.signExtend 64).toNat (op old (v.extractLsb' 0 w)) ∧
        KeepsBytesOutside s t (b + off.signExtend 64).toNat (w / 8) ∧
        t.reg src = .value (old.zeroExtend 64) ∧ KeepsRegsBut s t [src] ∧
        t.callStack = s.callStack ∧ t.pc = s.pc + 1 ∧ KeepsRun s t) ∧
    AtomicFaults s (b + off.signExtend 64) (w / 8) (exec (c base off src) s)

/-- CMPXCHG of `w` bits (43_atomic.md R251, R253, R272, R273): R0 is read last, the value is replaced
exactly when it matches the low `w` bits of R0, and R0 receives the old value, zero-extended. -/
def CompareExchangeRow (c : Reg → BitVec 16 → Reg → Instr) (opcode : BitVec 8) (imm : BitVec 32)
    (w : Nat) : Prop :=
  AtomicReads c opcode imm ∧
  ∀ (base : Reg) (off : BitVec 16) (src : Reg) (s : State) (b v : Word),
    s.reg base = .value b → s.reg src = .value v →
    (s.reg 0 = .noValue → exec (c base off src) s = .fault (.uninitRegister s.pc 0)) ∧
    (∀ r0, s.reg 0 = .value r0 →
      (∀ old : BitVec w, AtomicAllowed s (b + off.signExtend 64) (w / 8) →
        Spells s (b + off.signExtend 64).toNat old →
        ∃ t, exec (c base off src) s = .next t ∧
          (old = r0.extractLsb' 0 w → Spells t (b + off.signExtend 64).toNat (v.extractLsb' 0 w) ∧
            KeepsBytesOutside s t (b + off.signExtend 64).toNat (w / 8)) ∧
          (old ≠ r0.extractLsb' 0 w → KeepsBytes s t) ∧
          t.reg 0 = .value (old.zeroExtend 64) ∧ KeepsRegsBut s t [0] ∧
          t.callStack = s.callStack ∧ t.pc = s.pc + 1 ∧ KeepsRun s t) ∧
      AtomicFaults s (b + off.signExtend 64) (w / 8) (exec (c base off src) s))

/-! ### Helper calls (41_jump.md R201) -/

/-- Every argument register the helper needs holds a value. -/
def ArgsPresent (s : State) (needs : List (Fin 5)) : Prop :=
  ∀ k ∈ needs, ∃ v, s.reg (argReg k) = .value v

/-- What a helper's `Return` leaves (41_jump.md R201): R0 is the result, R1 to R5 hold no value, R6 to
R10 and the call stack are unchanged, memory and MEMMAP are the helper's, `pc` has advanced. -/
structure HelperReturned (s t : State) (r : HelperReturn) : Prop where
  result : t.reg 0 = .value r.r0
  args : ∀ x ∈ ([1, 2, 3, 4, 5] : List Reg), t.reg x = .noValue
  preserved : KeepsRegsBut s t [0, 1, 2, 3, 4, 5]
  callStack : t.callStack = s.callStack
  pc : t.pc = s.pc + 1
  memMap : t.memMap = r.memMap.getD s.memMap
  kept : ∀ x, (∀ w ∈ r.writes, w.1.toNat ≠ x) → t.byteAt x = s.byteAt x
  written : ∀ before a b after, r.writes = before ++ (a, b) :: after → (∀ w ∈ after, w.1 ≠ a) →
    t.byteAt a.toNat = b
  program : t.program = s.program
  params : t.params = s.params
  status : t.status = s.status
  memSeed : t.memSeed = s.memSeed

/-- The arguments are as a row of a written-out helper asks. -/
def ArgsFit (ps : List (Option RegContent)) (args : List RegContent) : Prop :=
  ∀ (k : Nat) (c : RegContent), ps[k]? = some (some c) → args[k]? = some c

/-- The outcome is one of a written-out set. -/
def Listed (os : HelperOutcomes) (o : HelperOutcome) : Prop := o = os.first ∨ o ∈ os.others

/-- The outcome is in the helper's set of outcomes on the call (41_jump.md R201): for the platform's own
relation, the set of `Config.helperOutcome`; for a helper that is written out, the set of the first row
that fits the arguments, else the last set. -/
def GivesOutcome (h : Helper) (call : HelperCall) (o : HelperOutcome) : Prop :=
  match h with
  | .platform name => ∃ k, Config.helperOutcome name call k = o
  | .table rows otherwise =>
    (∃ before r after, rows = before ++ r :: after ∧ (∀ b ∈ before, ¬ArgsFit b.args call.args) ∧
      ArgsFit r.args call.args ∧ Listed r.outcomes o) ∨
    ((∀ r ∈ rows, ¬ArgsFit r.args call.args) ∧ Listed otherwise o)

/-- The call step in `s` with the outcome `o` ends as `res` (41_jump.md R201; 60_exceptions.md R322);
the platform's choice is used up. -/
def HelperEnds (s : State) (o : HelperOutcome) (res : Result) : Prop :=
  match o with
  | .returns r => ∃ t, res = .next t ∧ HelperReturned s t r ∧ t.answers = s.answers.tail ∧
      t.draws = s.draws + 1
  | .faults f => res = .fault (faultOfHelper s.pc f)
  | .leaves => res = .refused .helperDoesNotReturn

/-- A call of a helper of one table (41_jump.md R199 to R201, R204): an id that is not offered faults,
a needed argument that holds no value faults, else the call has one of the helper's outcomes on it,
and each of them for some choice of the platform's. Where every outcome is a `Return`, the call goes
on. -/
def HelperRow (c : BitVec 32 → Instr) (src : BitVec 4) (table : Params → List HelperEntry)
    (unknown : Nat → BitVec 32 → Fault) : Prop :=
  ∀ (imm : BitVec 32) (s : State),
    (c imm).fields = ⟨0x85, 0, src, 0, imm⟩ ∧
    ((∀ h ∈ table s.params, h.id ≠ imm) → exec (c imm) s = .fault (unknown s.pc imm)) ∧
    ∀ h, (table s.params).find? (fun x => x.id == imm) = some h →
      (∀ before k after, h.needs = before ++ k :: after → ArgsPresent s before →
        s.reg (argReg k) = .noValue →
        exec (c imm) s = .fault (.uninitRegister s.pc (argReg k))) ∧
      (ArgsPresent s h.needs →
        (∃ o, GivesOutcome h.helper (helperCall s) o ∧ HelperEnds s o (exec (c imm) s)) ∧
        (∀ o, GivesOutcome h.helper (helperCall s) o →
          ∃ q : List Nat, HelperEnds { s with answers := q } o
            (exec (c imm) { s with answers := q })) ∧
        ((∀ o, GivesOutcome h.helper (helperCall s) o → ∃ r, o = .returns r) →
          ∃ r t, GivesOutcome h.helper (helperCall s) (.returns r) ∧
            exec (c imm) s = .next t ∧ HelperReturned s t r))

/-! ### 64-bit immediates (44_immediate64.md) -/

/-- A 64-bit immediate instruction that writes what a platform function gives, where it is defined
(44_immediate64.md R280, R282 to R287). -/
def PlatformRow (i : Instr) (dst : Reg) (subtype : BitVec 4) (imm next : BitVec 32)
    (value : State → Option Word) (what : Feature) : Prop :=
  i.fields = ⟨0x18, fieldOfReg dst, subtype, 0, imm⟩ ∧ i.wide = true ∧ i.nextImm = next ∧
  ∀ s : State,
    (∀ v, value s = some v → exec i s = .next ((s.writeReg dst v).advance 2)) ∧
    (value s = none → exec i s = .fault (.unsupported s.pc what))

/-! ### Runs -/

/-- `k` steps of the machine, up to the first fault or refusal. -/
def run : Nat → State → Result
  | 0, s => .next s
  | k + 1, s =>
    match step s with
    | .next t => run k t
    | .fault f => .fault f
    | .refused r => .refused r

/-- The run from `s` ends by the final `exit` with the value `v` (10_state.md R33). -/
def Returns (s : State) (v : Word) : Prop := ∃ k t, run k s = .next t ∧ t.status = .exited v

/-- The run from `s` faults with `f` (10_state.md R33). -/
def Faults (s : State) (f : Fault) : Prop := ∃ k, run k s = .fault f

/-- A safe run: it neither faults nor meets a refusal, however long it goes on. -/
def SafeRun (s : State) : Prop := ∀ k, ∃ t, run k s = .next t

/-- The slot index every fault carries (60_exceptions.md R301). -/
def Fault.pc : Fault → Nat
  | .illegalEncoding pc => pc
  | .pcOutOfRange pc _ => pc
  | .jumpIntoWide pc _ => pc
  | .uninitRegister pc _ => pc
  | .memAccess pc _ _ _ => pc
  | .misaligned pc _ _ => pc
  | .unknownHelper pc _ => pc
  | .callDepth pc => pc
  | .unsupported pc _ => pc

/-! ### The invariant of the machine -/

/-- A slot index at which sequential execution or a return may stand: at most `N`, and never the second
slot of a wide instruction (10_state.md R26; 41_jump.md R181). -/
def GoodPc (program : List Slot) (k : Nat) : Prop :=
  k ≤ program.length ∧ secondSlot program k = false

/-- The frames of the call stack, newest first: each returns to a good slot and has saved the frame
pointer of its own depth (10_state.md R28; 41_jump.md R202, R203). -/
def GoodFrames (program : List Slot) (p : Params) : List Frame → Prop
  | [] => True
  | f :: rest =>
    GoodPc program f.ret ∧ f.r10 = .value (framePointer p rest.length) ∧ GoodFrames program p rest

/-- What holds of the machine throughout a run. -/
structure Inv (s : State) : Prop where
  /-- Memory has its canonical form. -/
  mem : s.mem.wf = true
  /-- `pc` is a good slot index (10_state.md R26). -/
  pc : GoodPc s.program s.pc
  /-- At most MAX_CALL_DEPTH frames are live (10_state.md R28). -/
  depth : s.callStack = [] ∨ s.callStack.length + 1 ≤ s.params.maxCallDepth
  /-- R10 holds the frame pointer of the current frame (41_jump.md R203). -/
  fp : s.reg 10 = .value (framePointer s.params s.callStack.length)
  /-- The saved frames are good. -/
  frames : GoodFrames s.program s.params s.callStack

/-! ### What the program cannot see -/

/-- Two states that differ at most in how memory reads outside `Readable` (20_memory.md R51). -/
structure AgreeOnReadable (s t : State) : Prop where
  regs : t.regs = s.regs
  pc : t.pc = s.pc
  callStack : t.callStack = s.callStack
  memMap : t.memMap = s.memMap
  status : t.status = s.status
  program : t.program = s.program
  params : t.params = s.params
  answers : t.answers = s.answers
  draws : t.draws = s.draws
  bytes : ∀ x, InRanges s.memMap.readable x → t.byteAt x = s.byteAt x

/-- Two outcomes a program cannot tell apart. -/
def SameOutcome : Result → Result → Prop
  | .next s, .next t => AgreeOnReadable s t
  | .fault f, .fault g => f = g
  | .refused r, .refused q => r = q
  | .next _, .fault _ | .next _, .refused _ | .fault _, .next _ | .fault _, .refused _
  | .refused _, .next _ | .refused _, .fault _ => False

end Sys2Proof.Machine
end

