-- ==== Sys2Proof/Certificates/Slice0/Obligations.lean ====
section
/-! DEFINITION. The statements for the provers, from the numbered rules of spec/: encoding, the start
and the machine as a whole, arithmetic, jumps, calls, memory, 64-bit immediates. -/

open Sys2Proof Sys2Proof.Machine

/-- O1. For either byte order, any implemented groups, every well-formed implemented instruction
with any operands, and any slots after it: the encoding has as many slots as the instruction takes,
and decoding it gives the instruction. (30_encoding.md section 2 (R81 to R86), 30_encoding.md
section 6 (R97), R100) -/
def Obligations.DecodeOfEncode : Prop :=
  ∀ (e : Endian) (groups : List Group) (i : Instr) (rest : List Slot),
    i.wellFormed = true → i.implemented groups = true →
    (encode e i).length = i.slots ∧
    ∃ first more, encode e i ++ rest = first :: more ∧
      decode e groups first more.head? = .ok i

/-- O2. If the decoder reads instruction i from a slot and the slot after it, then i is well formed
and implemented, and the slots are exactly the encoding of i; for a conditional jump with an
immediate they are so but for the ignored src_reg field. R100 leaves that field free; that the
encoding has zero there, which the last clause says, is the model's choice (log 17). (30_encoding.md
section 5 (R96), 30_encoding.md section 7 (R98), R100, notes/assumptions/17.md) -/
def Obligations.DecodedWordIsEncoding : Prop :=
  ∀ (e : Endian) (groups : List Group) (a : Slot) (b : Option Slot) (i : Instr),
    decode e groups a b = .ok i →
    i.wellFormed = true ∧ i.implemented groups = true ∧
    (i.ignoresSrcField = false → (a :: b.toList).take i.slots = encode e i) ∧
    (i.ignoresSrcField = true →
      [Fields.toSlot e { a.fields e with src := 0 }] = encode e i)

/-- O3. An instruction ignores its src_reg field exactly when it is a conditional jump whose
encoding has s = K; with any four bits in that field its word decodes to the same instruction.
(R100, R182) -/
def Obligations.IgnoredSourceField : Prop :=
  (∀ i : Instr, i.ignoresSrcField = true ↔
    (i.family = .jump ∧ i.fields.s = 0 ∧ i.fields.code ≠ 0)) ∧
  ∀ (e : Endian) (groups : List Group) (i : Instr) (n : BitVec 4) (b : Option Slot),
    i.ignoresSrcField = true →
    decode e groups (Fields.toSlot e { i.fields with src := n }) b = .ok i

/-- O4. A slot whose opcode byte is neither in the tables of R97 nor of a legacy mode is an illegal
encoding, whatever its other bytes; each opcode byte of the tables is that of some instruction.
(30_encoding.md section 6 (R97), 30_encoding.md section 7 (R98, item 1)) -/
def Obligations.UndefinedOpcodesIllegal : Prop :=
  (∀ (e : Endian) (groups : List Group) (a : Slot) (b : Option Slot),
    a.b0 ∉ definedOpcodes → ¬LegacyOpcode a.b0 →
    decode e groups a b = .error .illegalEncoding) ∧
  (∀ i : Instr, i.fields.opcode ∈ definedOpcodes) ∧
  ∀ op ∈ definedOpcodes, ¬LegacyOpcode op ∧ ∃ i : Instr, i.wellFormed = true ∧ i.fields.opcode = op

/-- O5. When the opcode byte at pc has a load or store class and mode ABS or IND, a running machine
faults Unsupported(pc, legacy packet access), whatever the other bytes of the slot and the slot
after it hold. (R290, R291) -/
def Obligations.LegacyModesUnsupported : Prop :=
  ∀ (s : State) (a : Slot),
    s.status = .running → s.program[s.pc]? = some a → LegacyOpcode a.b0 →
    step s = .fault (.unsupported s.pc .legacyPacketAccess)

/-- O6. Opcode 0x18 in the last slot faults IllegalEncoding; so does opcode 0x18 followed by a slot
whose first four bytes are not all zero; and a slot whose opcode byte is 0x00 faults IllegalEncoding
if ever fetched. (R95, R96, R289) -/
def Obligations.WideNeedsItsSecondSlot : Prop :=
  ∀ (s : State) (a : Slot),
    s.status = .running → s.program[s.pc]? = some a →
    (a.b0 = 0x18 → s.pc + 1 = s.program.length → step s = .fault (.illegalEncoding s.pc)) ∧
    (∀ b : Slot, a.b0 = 0x18 → s.program[s.pc + 1]? = some b →
      ¬(b.b0 = 0 ∧ b.b1 = 0 ∧ b.b2 = 0 ∧ b.b3 = 0) → step s = .fault (.illegalEncoding s.pc)) ∧
    (a.b0 = 0x00 → step s = .fault (.illegalEncoding s.pc))

/-- O7. With dst_reg 11 to 15 every slot but one of a legacy mode is an illegal encoding; with
src_reg 11 to 15 too, unless the word spells a conditional jump with an immediate, which does not
use the field as a register number. (R21) -/
def Obligations.RegisterNumbersChecked : Prop :=
  ∀ (e : Endian) (groups : List Group) (a : Slot) (b : Option Slot), ¬LegacyOpcode a.b0 →
    (11 ≤ (a.fields e).dst.toNat → decode e groups a b = .error .illegalEncoding) ∧
    (11 ≤ (a.fields e).src.toNat →
      decode e groups a b = .error .illegalEncoding ∨
      ∃ i, decode e groups a b = .ok i ∧ i.ignoresSrcField = true)

/-- O8. The instructions whose encoding names R10 as a register to write (dst_reg of the arithmetic,
load and 64-bit immediate instructions, src_reg of the FETCH forms and XCHG, never of CMPXCHG) fault
IllegalEncoding in every running state; every other use of R10 is well formed; and no step of
another instruction than call_local and exit changes R10. (R25) -/
def Obligations.FramePointerReadOnly : Prop :=
  (∀ i : Instr, (i.family = .arithmetic ∨ i.family = .load ∨ i.family = .imm64) →
    i.writes.map fieldOfReg = some i.fields.dst) ∧
  (∀ i : Instr, i.family = .atomic →
    i.writes.map fieldOfReg = if i.fields.imm &&& 1 = 1 then some i.fields.src else none) ∧
  (∀ i : Instr, (i.family = .jump ∨ i.family = .helperCall ∨ i.family = .localCall ∨
    i.family = .exit ∨ i.family = .store ∨ i.family = .compareExchange) → i.writes = none) ∧
  (∀ (i : Instr) (s : State), i.writes = some Reg.fp → s.status = .running →
    s.program[s.pc]? = some (i.fields.toSlot s.params.hostEndian) →
    step s = .fault (.illegalEncoding s.pc)) ∧
  (∀ i : Instr, i.writes ≠ some Reg.fp → i.wellFormed = true) ∧
  (∀ (s t : State) (i : Instr), s.status = .running → fetch s = .ok i → i.family ≠ .localCall →
    i.family ≠ .exit → step s = .next t → t.reg 10 = s.reg 10)

/-- O9. The instructions with opcode 0xc3 are of group atomic32, those with 0xdb of atomic64, the
byte swaps of width 64 of base64 and the others of base32, no other instruction names a group;
without its group in GROUPS opcode byte 0xc3 or 0xdb, or a byte swap, is an illegal encoding; 0xcb
and 0xd3 always are. (R275) -/
def Obligations.GroupsNotImplemented : Prop :=
  (∀ i : Instr, i.group =
    if i.fields.opcode = 0xc3 then some .atomic32
    else if i.fields.opcode = 0xdb then some .atomic64
    else if i.fields.opcode = 0xd4 ∨ i.fields.opcode = 0xdc ∨ i.fields.opcode = 0xd7 then
      (if i.fields.imm = 64 then some .base64 else some .base32)
    else none) ∧
  ∀ (e : Endian) (groups : List Group) (a : Slot) (b : Option Slot),
    (a.b0 = 0xc3 → .atomic32 ∉ groups → decode e groups a b = .error .illegalEncoding) ∧
    (a.b0 = 0xdb → .atomic64 ∉ groups → decode e groups a b = .error .illegalEncoding) ∧
    (a.b0 = 0xcb ∨ a.b0 = 0xd3 → decode e groups a b = .error .illegalEncoding) ∧
    (a.b0 = 0xd4 ∨ a.b0 = 0xdc ∨ a.b0 = 0xd7 →
      (if (a.fields e).imm = 64 then .base64 else .base32) ∉ groups →
      decode e groups a b = .error .illegalEncoding)

/-- O10. Words printed in the spec with their bytes, one or more of each class, decode to the
instruction the spec names, and the bytes of the big-endian layout of one of them decode to the same
instruction on a big-endian host. (30_encoding.md section 2 (R81 to R85), R130, R187, R202, R235,
R241, R272, R281) -/
def Obligations.WordsOfTheSpec : Prop :=
  let all := Params.default.groups
  decode .le all ⟨0x07, 0x01, 0x00, 0x00, 0x01, 0x00, 0x00, 0x00⟩ none = .ok (.add64 1 (.imm 1)) ∧
  decode .le all ⟨0x3c, 0x21, 0x00, 0x00, 0x00, 0x00, 0x00, 0x00⟩ none = .ok (.div32 1 (.reg 2)) ∧
  decode .le all ⟨0x97, 0x01, 0x01, 0x00, 0x03, 0x00, 0x00, 0x00⟩ none = .ok (.smod64 1 (.imm 3)) ∧
  decode .le all ⟨0xbc, 0x21, 0x10, 0x00, 0x00, 0x00, 0x00, 0x00⟩ none = .ok (.movsx16_32 1 2) ∧
  decode .le all ⟨0xdc, 0x01, 0x00, 0x00, 0x20, 0x00, 0x00, 0x00⟩ none = .ok (.be32 1) ∧
  decode .le all ⟨0x25, 0x01, 0x02, 0x00, 0xff, 0xff, 0xff, 0xff⟩ none =
    .ok (.jgt64 1 (.imm 0xffffffff) 2) ∧
  decode .le all ⟨0x06, 0x00, 0x00, 0x00, 0xfd, 0xff, 0xff, 0xff⟩ none = .ok (.ja32 0xfffffffd) ∧
  decode .le all ⟨0x85, 0x10, 0x00, 0x00, 0x02, 0x00, 0x00, 0x00⟩ none = .ok (.callLocal 2) ∧
  decode .le all ⟨0x95, 0x00, 0x00, 0x00, 0x00, 0x00, 0x00, 0x00⟩ none = .ok .exit ∧
  decode .le all ⟨0x89, 0x10, 0x02, 0x00, 0x00, 0x00, 0x00, 0x00⟩ none = .ok (.ldxsh 0 1 2) ∧
  decode .le all ⟨0x6a, 0x0a, 0xfe, 0xff, 0xef, 0xbe, 0xad, 0xde⟩ none =
    .ok (.sth 10 0xfffe 0xdeadbeef) ∧
  decode .le all ⟨0x7b, 0x1a, 0xf8, 0xff, 0x00, 0x00, 0x00, 0x00⟩ none = .ok (.stxdw 10 0xfff8 1) ∧
  decode .be all ⟨0x7b, 0xa1, 0xff, 0xf8, 0x00, 0x00, 0x00, 0x00⟩ none = .ok (.stxdw 10 0xfff8 1) ∧
  decode .le all ⟨0xc3, 0x1a, 0xfc, 0xff, 0xf1, 0x00, 0x00, 0x00⟩ none =
    .ok (.atomicCmpxchg32 10 0xfffc 1) ∧
  decode .le all ⟨0x18, 0x01, 0x00, 0x00, 0x88, 0x77, 0x66, 0x55⟩
    (some ⟨0x00, 0x00, 0x00, 0x00, 0x44, 0x33, 0x22, 0x11⟩) =
    .ok (.lddw 1 0x55667788 0x11223344)

/-- O11. When the slot at pc and the slot after it decode to i, one step is exec of i in that state
and nothing else: the meaning itself moves pc past the instruction. (30_encoding.md section 5 (R96),
R360) -/
def Obligations.StepRunsTheDecodedInstruction : Prop :=
  ∀ (s : State) (first : Slot) (i : Instr),
    s.status = .running → s.program[s.pc]? = some first →
    decode s.params.hostEndian s.params.groups first s.program[s.pc + 1]? = .ok i →
    step s = exec i s

/-- O12. With pc at or past the number of slots a step faults PcOutOfRange; where the decoder finds
no instruction it faults IllegalEncoding at pc. That the target PcOutOfRange carries is then pc
itself is the model's reading (log 23). (R96, R303, R302, notes/assumptions/23.md) -/
def Obligations.FetchFaults : Prop :=
  ∀ s : State, s.status = .running →
    (s.program.length ≤ s.pc → step s = .fault (.pcOutOfRange s.pc s.pc)) ∧
    (∀ first, s.program[s.pc]? = some first →
      decode s.params.hostEndian s.params.groups first s.program[s.pc + 1]? =
        .error .illegalEncoding →
      step s = .fault (.illegalEncoding s.pc))

/-- O13. For every program, parameters, memory and MEMMAP the platform supplies, the start state has
these values and the status Running; the state after reset is the start on the default platform.
That the platform after reset has no program, and what its CTX, FP0 and MEMMAP are, is the statement
ResetChoices. (10_state.md section 7 (R34), 70_reset_and_hazards.md section 1 (R340, R341)) -/
def Obligations.StartOfARun : Prop :=
  (∀ (program : List Slot) (p : Params) (mem : Memory) (memMap : MemMap)
    (answers : List Nat) (seed : Nat),
    let s := State.start program p mem memMap answers seed
    s.reg 1 = .value p.ctx ∧ s.reg 10 = .value p.fp0 ∧
    (∀ r ∈ ([0, 2, 3, 4, 5, 6, 7, 8, 9] : List Reg), s.reg r = .noValue) ∧
    s.pc = 0 ∧ s.callStack = [] ∧ s.status = .running ∧ s.program = program ∧ s.params = p ∧
    s.mem = mem ∧ s.memMap = memMap) ∧
  State.reset = State.start [] .default .empty State.reset.memMap [] 0

/-- O14. MODEL CHOICES at reset (logs 2, 3, 4, 5, 8, 9, 10): the values the platform supplies and
the spec leaves open. No rule of the spec gives them. (10_state.md section 7 (R34),
notes/assumptions/2.md, notes/assumptions/3.md, notes/assumptions/4.md, notes/assumptions/5.md,
notes/assumptions/8.md, notes/assumptions/9.md, notes/assumptions/10.md) -/
def Obligations.ResetChoices : Prop :=
  State.reset.params.ctx = 0x2000 ∧ State.reset.params.fp0 = 0x10000 ∧
  State.reset.memMap = ⟨[⟨0xf000, 0x1000⟩], [⟨0xf000, 0x1000⟩]⟩ ∧
  State.reset.program = [] ∧ State.reset.params.helpers = [] ∧ State.reset.mem = [] ∧
  State.reset.memSeed = 0 ∧ State.reset.answers = [] ∧ State.reset.draws = 0

/-- O15. Inv holds at State.reset, and at the start of a run on any platform whose memory is in
canonical form and whose FRAME_FP(0) is FP0. (R26, R28, R34, R203) -/
def Obligations.InvariantAtStart : Prop :=
  Inv State.reset ∧
  ∀ (program : List Slot) (p : Params) (mem : Memory) (memMap : MemMap)
    (answers : List Nat) (seed : Nat),
    mem.wf = true → framePointer p 0 = p.fp0 →
    Inv (State.start program p mem memMap answers seed)

/-- O16. From every state with Inv, a step that answers a next state keeps Inv: memory in canonical
form, pc at most N and never the second slot of a wide instruction, at most MAX_CALL_DEPTH frames,
R10 the frame pointer of the current depth, and every saved frame with a good return slot and the
frame pointer of its own depth. FRAME_FP of a frame that a table of the platform does not list is
the model's choice (log 12). (R26, R28, R181, R202, R203, R205, notes/assumptions/12.md) -/
def Obligations.StepKeepsInvariant : Prop :=
  ∀ s t : State, Inv s → step s = .next t → Inv t

/-- O17. Whatever instruction runs, the program, the parameters and the start contents of memory are
the same after the step: a store, an atomic or a helper never reaches program text. (20_memory.md
section 7 (R74), 10_state.md section 5 (R32), R332) -/
def Obligations.ProgramNeverChanges : Prop :=
  ∀ s t : State, step s = .next t →
    t.program = s.program ∧ t.params = s.params ∧ t.memSeed = s.memSeed

/-- O18. An exited machine stays as it is and a faulted one answers its fault again, whatever its
program holds. That a step is still asked of an ended machine, and what it answers, is the model's
form (log 11). (10_state.md section 6 (R33), notes/assumptions/11.md) -/
def Obligations.EndedRunsStayEnded : Prop :=
  ∀ s : State,
    (∀ v, s.status = .exited v → step s = .next s) ∧
    (∀ f, s.status = .faulted f → step s = .fault f)

/-- O19. If a step takes a running state to one that is not running, then the instruction at pc is
exit, the call stack is empty, R0 holds a value v, and the only change is the status, which becomes
Exited(v). R205 writes no pc there; that pc stays at the exit is the model's reading (log 20). (R33,
R205, R333, notes/assumptions/20.md) -/
def Obligations.OnlyTheOutermostExitEndsARun : Prop :=
  ∀ s t : State, s.status = .running → step s = .next t → t.status ≠ .running →
    ∃ v, fetch s = .ok .exit ∧ s.callStack = [] ∧ s.reg 0 = .value v ∧
      t = { s with status := .exited v }

/-- O20. If the run from s ends in Exited(v) then it ends in Exited(w) only for w = v, it faults
with no f, and every number of steps gives a next state. That a step is still asked of an exited
machine and leaves it as it is, is the model's form (log 11). (R33, R300, R333,
notes/assumptions/11.md) -/
def Obligations.ResultIsFinal : Prop :=
  ∀ (s : State) (v : Word), Returns s v →
    (∀ w, Returns s w → w = v) ∧ (∀ f, ¬Faults s f) ∧ SafeRun s

/-- O21. An instruction that is no store, no atomic and no helper call leaves memory, MEMMAP and the
read of every byte as they were. (R50, R61, R332) -/
def Obligations.MemoryChangesOnlyByStores : Prop :=
  ∀ (i : Instr) (s t : State), exec i s = .next t → i.family ≠ .store → i.family ≠ .atomic →
    i.family ≠ .compareExchange → i.family ≠ .helperCall →
    t.mem = s.mem ∧ t.memMap = s.memMap ∧ KeepsBytes s t

/-- O22. Unless the instruction at pc is a helper call, a byte that no range of Writable holds reads
after the step as before it, and MEMMAP is the same. (R51, R56, R251) -/
def Obligations.WritesStayInWritable : Prop :=
  ∀ s t : State, step s = .next t → (∀ i, fetch s = .ok i → i.family ≠ .helperCall) →
    t.memMap = s.memMap ∧ ∀ x, ¬InRanges s.memMap.writable x → t.byteAt x = s.byteAt x

/-- O23. Two states that agree but for bytes outside Readable take steps with the same outcome,
unless the instruction at pc is a helper call: the same fault, the same refusal, or next states that
again agree but for bytes outside Readable. (R51, R55, R251, R75) -/
def Obligations.UnreadableMemoryIsInvisible : Prop :=
  ∀ s t : State, AgreeOnReadable s t → (∀ i, fetch s = .ok i → i.family ≠ .helperCall) →
    SameOutcome (step s) (step t)

/-- O24. If a step answers a refusal, the instruction at pc is a helper call, the refusal is that
the helper does not return to the next instruction, and it is an outcome of a helper of HELPERS or
HELPERS_BTF on this call. How a helper and its outcomes stand in State is the model's form (log 9).
(R201, notes/assumptions/9.md) -/
def Obligations.OnlyHelpersAreRefused : Prop :=
  ∀ (s : State) (r : Refusal), step s = .refused r →
    r = .helperDoesNotReturn ∧ (∃ i, fetch s = .ok i ∧ i.family = .helperCall) ∧
    ∃ h ∈ s.params.helpers ++ s.params.helpersBtf, GivesOutcome h.helper (helperCall s) .leaves

/-- O25. In a running state, whatever fault a step answers, its pc is the pc of the state, a fault
inside a helper included. (R301, R322) -/
def Obligations.FaultsCarryPc : Prop :=
  ∀ (s : State) (f : Fault), s.status = .running → step s = .fault f → f.pc = s.pc

/-- O26. When executed, an arithmetic instruction faults only UninitRegister; a jump also
PcOutOfRange and JumpIntoWide; a load, a store or an atomic UninitRegister, MemAccess or Misaligned;
a program-local call CallDepth, PcOutOfRange or JumpIntoWide; exit UninitRegister(0); a 64-bit
immediate Unsupported. (R127, R182, R222, R223, R251, R301) -/
def Obligations.FaultsOfEachFamily : Prop :=
  ∀ (i : Instr) (s : State) (f : Fault), exec i s = .fault f →
    (i.family = .arithmetic → ∃ r, f = .uninitRegister s.pc r) ∧
    (i.family = .jump → (∃ r, f = .uninitRegister s.pc r) ∨ (∃ t, f = .pcOutOfRange s.pc t) ∨
      ∃ t, f = .jumpIntoWide s.pc t) ∧
    (i.family = .load → (∃ r, f = .uninitRegister s.pc r) ∨
      (∃ a n, f = .memAccess s.pc a n .read) ∨ ∃ a n, f = .misaligned s.pc a n) ∧
    (i.family = .store → (∃ r, f = .uninitRegister s.pc r) ∨
      (∃ a n, f = .memAccess s.pc a n .write) ∨ ∃ a n, f = .misaligned s.pc a n) ∧
    (i.family = .atomic ∨ i.family = .compareExchange → (∃ r, f = .uninitRegister s.pc r) ∨
      (∃ a n k, f = .memAccess s.pc a n k) ∨ ∃ a n, f = .misaligned s.pc a n) ∧
    (i.family = .localCall → f = .callDepth s.pc ∨ (∃ t, f = .pcOutOfRange s.pc t) ∨
      ∃ t, f = .jumpIntoWide s.pc t) ∧
    (i.family = .exit → f = .uninitRegister s.pc 0) ∧
    (i.family = .imm64 → ∃ what, f = .unsupported s.pc what)

/-- O27. add64, add32, sub64, sub32, mul64, mul32: the opcode bytes and the offset of both forms,
the next state with the wrapped result (of the low halves, zero-extended, for the 32-bit forms), and
UninitRegister where dst, or else a source register, holds no value. (R120, R121, R123, R126, R130,
R131, R132, R133, R134, R135) -/
def Obligations.AddSubMul : Prop :=
  Alu64Row .add64 0x07 0x0f 0 (fun _ a b => a + b) ∧
  Alu32Row .add32 0x04 0x0c 0 (fun _ a b => a + b) ∧
  Alu64Row .sub64 0x17 0x1f 0 (fun _ a b => a - b) ∧
  Alu32Row .sub32 0x14 0x1c 0 (fun _ a b => a - b) ∧
  Alu64Row .mul64 0x27 0x2f 0 (fun _ a b => a * b) ∧
  Alu32Row .mul32 0x24 0x2c 0 (fun _ a b => a * b)

/-- O28. or64, or32, and64, and32, xor64, xor32: the opcode bytes and the offset of both forms, the
next state with the bitwise result (of the low halves, zero-extended, for the 32-bit forms), and
UninitRegister where dst, or else a source register, holds no value. (R120, R121, R126, R140, R141,
R142, R143, R158, R159) -/
def Obligations.BitwiseOps : Prop :=
  Alu64Row .or64 0x47 0x4f 0 (fun _ a b => a ||| b) ∧
  Alu32Row .or32 0x44 0x4c 0 (fun _ a b => a ||| b) ∧
  Alu64Row .and64 0x57 0x5f 0 (fun _ a b => a &&& b) ∧
  Alu32Row .and32 0x54 0x5c 0 (fun _ a b => a &&& b) ∧
  Alu64Row .xor64 0xa7 0xaf 0 (fun _ a b => a ^^^ b) ∧
  Alu32Row .xor32 0xa4 0xac 0 (fun _ a b => a ^^^ b)

/-- O29. div64, div32, mod64, mod32: the opcode bytes with offset 0, the next state with the
unsigned quotient or remainder, a divisor of zero giving 0 or the old destination (its low half for
the 32-bit form), and UninitRegister where an operand holds no value. (R124, R136, R137, R154, R155,
R312) -/
def Obligations.UnsignedDivMod : Prop :=
  Alu64Row .div64 0x37 0x3f 0 (fun _ a b => if b = 0 then 0 else a / b) ∧
  Alu32Row .div32 0x34 0x3c 0 (fun _ a b => if b = 0 then 0 else a / b) ∧
  Alu64Row .mod64 0x97 0x9f 0 (fun _ a b => if b = 0 then a else a - b * (a / b)) ∧
  Alu32Row .mod32 0x94 0x9c 0 (fun _ a b => if b = 0 then a else a - b * (a / b))

/-- O30. sdiv64, sdiv32, smod64, smod32: the opcode bytes with offset 1, the next state with the
quotient rounded toward zero and the remainder that goes with it; a zero divisor gives 0 or the old
destination, MIN divided by -1 gives MIN, its remainder 0; UninitRegister where an operand holds no
value. (R125, R138, R139, R156, R157, R312) -/
def Obligations.SignedDivMod : Prop :=
  Alu64Row .sdiv64 0x37 0x3f 1 (fun _ a b =>
    if b = 0 then 0 else if a = BitVec.intMin 64 ∧ b = -1 then BitVec.intMin 64
    else BitVec.ofInt 64 (a.toInt.tdiv b.toInt)) ∧
  Alu32Row .sdiv32 0x34 0x3c 1 (fun _ a b =>
    if b = 0 then 0 else if a = BitVec.intMin 32 ∧ b = -1 then BitVec.intMin 32
    else BitVec.ofInt 32 (a.toInt.tdiv b.toInt)) ∧
  Alu64Row .smod64 0x97 0x9f 1 (fun _ a b =>
    if b = 0 then a else if a = BitVec.intMin 64 ∧ b = -1 then 0
    else BitVec.ofInt 64 (a.toInt - b.toInt * a.toInt.tdiv b.toInt)) ∧
  Alu32Row .smod32 0x94 0x9c 1 (fun _ a b =>
    if b = 0 then a else if a = BitVec.intMin 32 ∧ b = -1 then 0
    else BitVec.ofInt 32 (a.toInt - b.toInt * a.toInt.tdiv b.toInt))

/-- O31. lsh64, lsh32, rsh64, rsh32, arsh64, arsh32: the opcode bytes, the next state with the value
shifted by the masked source operand (low halves, zero-extended, for the 32-bit forms), and
UninitRegister where an operand holds no value. The spec does not say what a mask that lets a count
of the full width or more through does; that such a count shifts everything out is the model's
reading (log 16). (R122, R144, R145, R146, R147, R168, R169, notes/assumptions/16.md) -/
def Obligations.Shifts : Prop :=
  Alu64Row .lsh64 0x67 0x6f 0 (fun p a b => a <<< (b &&& p.shiftMask64).toNat) ∧
  Alu32Row .lsh32 0x64 0x6c 0 (fun p a b => a <<< (b &&& p.shiftMask32).toNat) ∧
  Alu64Row .rsh64 0x77 0x7f 0 (fun p a b => a >>> (b &&& p.shiftMask64).toNat) ∧
  Alu32Row .rsh32 0x74 0x7c 0 (fun p a b => a >>> (b &&& p.shiftMask32).toNat) ∧
  Alu64Row .arsh64 0xc7 0xcf 0 (fun p a b => a.sshiftRight (b &&& p.shiftMask64).toNat) ∧
  Alu32Row .arsh32 0xc4 0xcc 0 (fun p a b => a.sshiftRight (b &&& p.shiftMask32).toNat)

/-- O32. With SHIFT_MASK64 = 0x3f and SHIFT_MASK32 = 0x1f: the count n is the source operand modulo
64 or 32; lsh gives the product with 2^n modulo 2^64 or 2^32, rsh the unsigned quotient by 2^n, arsh
the signed quotient by 2^n rounded down; the 32-bit results are zero-extended. (R122, R144, R145,
R146, R147, R168, R169) -/
def Obligations.ShiftsAsArithmetic : Prop :=
  ∀ (dst : Reg) (src : Src) (s : State) (a : Word), s.reg dst = .value a →
    (s.params.shiftMask64 = 0x3f → ∀ b, Source64 s src b →
      exec (.lsh64 dst src) s =
        .next ((s.writeReg dst (BitVec.ofNat 64 (a.toNat * 2 ^ (b.toNat % 64)))).advance 1) ∧
      exec (.rsh64 dst src) s =
        .next ((s.writeReg dst (BitVec.ofNat 64 (a.toNat / 2 ^ (b.toNat % 64)))).advance 1) ∧
      exec (.arsh64 dst src) s =
        .next ((s.writeReg dst (BitVec.ofInt 64 (a.toInt / 2 ^ (b.toNat % 64)))).advance 1)) ∧
    (s.params.shiftMask32 = 0x1f → ∀ b, Source32 s src b →
      exec (.lsh32 dst src) s = .next ((s.writeReg dst ((BitVec.ofNat 32
        ((a.extractLsb' 0 32).toNat * 2 ^ (b.toNat % 32))).zeroExtend 64)).advance 1) ∧
      exec (.rsh32 dst src) s = .next ((s.writeReg dst ((BitVec.ofNat 32
        ((a.extractLsb' 0 32).toNat / 2 ^ (b.toNat % 32))).zeroExtend 64)).advance 1) ∧
      exec (.arsh32 dst src) s = .next ((s.writeReg dst ((BitVec.ofInt 32
        ((a.extractLsb' 0 32).toInt / 2 ^ (b.toNat % 32))).zeroExtend 64)).advance 1))

/-- O33. neg64, neg32, mov64, mov32: the opcode bytes, the next state (0 minus the value; the source
operand, sign-extended or zero-extended), and UninitRegister for an operand that is read and holds
no value; the destination of mov is not read. (R126, R152, R153, R161, R162) -/
def Obligations.NegMov : Prop :=
  UnaryRow .neg64 0x87 0 (fun _ a => 0 - a) ∧
  UnaryRow .neg32 0x84 0 (fun _ a => (0 - a.extractLsb' 0 32).zeroExtend 64) ∧
  Mov64Row .mov64 0xb7 0xbf ∧ Mov32Row .mov32 0xb4 0xbc

/-- O34. movsx8_64, movsx16_64, movsx32_64, movsx8_32, movsx16_32: opcode byte, offset, the next
state with the extended value, UninitRegister where the source holds no value; the destination is
not read. (R160, R163, R164, R165, R166, R167) -/
def Obligations.SignExtendingMoves : Prop :=
  MoveRow .movsx8_64 0xbf 8 (fun v => (v.extractLsb' 0 8).signExtend 64) ∧
  MoveRow .movsx16_64 0xbf 16 (fun v => (v.extractLsb' 0 16).signExtend 64) ∧
  MoveRow .movsx32_64 0xbf 32 (fun v => (v.extractLsb' 0 32).signExtend 64) ∧
  MoveRow .movsx8_32 0xbc 8 (fun v => ((v.extractLsb' 0 8).signExtend 32).zeroExtend 64) ∧
  MoveRow .movsx16_32 0xbc 16 (fun v => ((v.extractLsb' 0 16).signExtend 32).zeroExtend 64)

/-- O35. le16, le32, le64, be16, be32, be64, bswap16, bswap32, bswap64: opcode byte and width in
imm; the next state with the low bits swapped or kept as the host order says and zero-extended;
UninitRegister where the destination holds no value. (R170, R171, R172, R173, R174, R175, R176,
R177, R178, R179) -/
def Obligations.ByteSwaps : Prop :=
  UnaryRow .le16 0xd4 16 (fun p a => match p.hostEndian with
    | .le => (a.extractLsb' 0 16).zeroExtend 64
    | .be => (bswapN (a.extractLsb' 0 16)).zeroExtend 64) ∧
  UnaryRow .le32 0xd4 32 (fun p a => match p.hostEndian with
    | .le => (a.extractLsb' 0 32).zeroExtend 64
    | .be => (bswapN (a.extractLsb' 0 32)).zeroExtend 64) ∧
  UnaryRow .le64 0xd4 64 (fun p a => match p.hostEndian with
    | .le => a
    | .be => bswapN a) ∧
  UnaryRow .be16 0xdc 16 (fun p a => match p.hostEndian with
    | .le => (bswapN (a.extractLsb' 0 16)).zeroExtend 64
    | .be => (a.extractLsb' 0 16).zeroExtend 64) ∧
  UnaryRow .be32 0xdc 32 (fun p a => match p.hostEndian with
    | .le => (bswapN (a.extractLsb' 0 32)).zeroExtend 64
    | .be => (a.extractLsb' 0 32).zeroExtend 64) ∧
  UnaryRow .be64 0xdc 64 (fun p a => match p.hostEndian with
    | .le => bswapN a
    | .be => a) ∧
  UnaryRow .bswap16 0xd7 16 (fun _ a => (bswapN (a.extractLsb' 0 16)).zeroExtend 64) ∧
  UnaryRow .bswap32 0xd7 32 (fun _ a => (bswapN (a.extractLsb' 0 32)).zeroExtend 64) ∧
  UnaryRow .bswap64 0xd7 64 (fun _ a => bswapN a)

/-- O36. For every value of 16, 32 or 64 bits, byte k of the swapped value, counted from the least
significant, is byte n-1-k of the value; and the swap is its own inverse. (R10, R170) -/
def Obligations.SwapReversesBytes : Prop :=
  (∀ (v : BitVec 16) (k : Nat), k < 2 →
    (bswapN v).extractLsb' (8 * k) 8 = v.extractLsb' (8 * (1 - k)) 8) ∧
  (∀ (v : BitVec 32) (k : Nat), k < 4 →
    (bswapN v).extractLsb' (8 * k) 8 = v.extractLsb' (8 * (3 - k)) 8) ∧
  (∀ (v : BitVec 64) (k : Nat), k < 8 →
    (bswapN v).extractLsb' (8 * k) 8 = v.extractLsb' (8 * (7 - k)) 8) ∧
  (∀ v : BitVec 16, bswapN (bswapN v) = v) ∧ (∀ v : BitVec 32, bswapN (bswapN v) = v) ∧
  (∀ v : BitVec 64, bswapN (bswapN v) = v)

/-- O37. When an instruction of these families gives a next state, every register but its
destination, the call stack, every byte of memory, the program, the parameters, MEMMAP and the run
status are unchanged, the destination holds a value, and pc has advanced past the instruction. (R29,
R120, R121, R127, R222, R280) -/
def Obligations.RegisterResultFrame : Prop :=
  ∀ (i : Instr) (s t : State), exec i s = .next t →
    (i.family = .arithmetic ∨ i.family = .load ∨ i.family = .imm64) →
    KeepsRegsBut s t i.writes.toList ∧ (∀ r, i.writes = some r → ∃ v, t.reg r = .value v) ∧
    t.callStack = s.callStack ∧ t.mem = s.mem ∧ KeepsBytes s t ∧ KeepsRun s t ∧
    t.pc = s.pc + i.slots

/-- O38. When an instruction of class ALU other than a byte swap of width 64, a byte swap of width
16 or 32, or a FETCH form or XCHG of width 32 gives a next state, the register it writes holds a
value whose upper 32 bits are zero; so does R0 after atomic_cmpxchg32. (R35, R121, R170, R252) -/
def Obligations.NarrowResultsZeroTheUpperHalf : Prop :=
  ∀ (i : Instr) (s t : State), exec i s = .next t →
    (∀ r, i.writes = some r →
      (i.family = .arithmetic ∧ i.fields.cls = clsAlu32 ∧ i.group ≠ some .base64) ∨
      i.group = some .base32 ∨ i.group = some .atomic32 →
      ∃ v : Word32, t.reg r = .value (v.zeroExtend 64)) ∧
    (i.family = .compareExchange → i.group = some .atomic32 →
      ∃ v : Word32, t.reg 0 = .value (v.zeroExtend 64))

/-- O39. ja carries its distance in the 16-bit offset, ja32 in the 32-bit imm; each goes to slot pc
+ 1 + distance, in the integers, and changes nothing else, or faults PcOutOfRange or JumpIntoWide as
SetPc does. (R181, R183, R184) -/
def Obligations.UnconditionalJumps : Prop :=
  ∀ s : State,
    (∀ off : BitVec 16, (Instr.ja off).fields = ⟨0x05, 0, 0, off, 0⟩ ∧
      SetPc s ((s.pc : Int) + 1 + off.toInt) (exec (.ja off) s)) ∧
    (∀ imm : BitVec 32, (Instr.ja32 imm).fields = ⟨0x06, 0, 0, 0, imm⟩ ∧
      SetPc s ((s.pc : Int) + 1 + imm.toInt) (exec (.ja32 imm) s))

/-- O40. A slot of the program is a second slot for the machine exactly when the sweep of R181 marks
it; every other slot is a start of the sweep, and no slot is both. (R181, R289) -/
def Obligations.SecondSlotsBySweep : Prop :=
  ∀ (program : List Slot) (k : Nat),
    (secondSlot program k = true ↔ k < program.length ∧ IsSecondSlot program k) ∧
    (k < program.length → (secondSlot program k = false ↔ Start program k))

/-- O41. jeq64, jgt64, jge64, jset64, jne64, jsgt64, jsge64, jlt64, jle64, jslt64, jsle64 (R185 to
R213): the opcode bytes; taken exactly when the condition holds of the 64-bit operands, to pc + 1 +
offset as SetPc does; else to the next slot; UninitRegister, taken or not, where an operand holds no
value. That the fields of the K form have src_reg zero, a field R100 leaves free, is the model's
choice (log 17). (41_jump.md section 1 (R180, R182), R185, R187, R189, R191, R193, R195, R197,
41_jump.md section 6 (R207, R209, R211, R213), notes/assumptions/17.md) -/
def Obligations.Jumps64 : Prop :=
  Jump64Row .jeq64 0x15 0x1d (fun a b => a = b) ∧
  Jump64Row .jgt64 0x25 0x2d (fun a b => a.toNat > b.toNat) ∧
  Jump64Row .jge64 0x35 0x3d (fun a b => a.toNat ≥ b.toNat) ∧
  Jump64Row .jset64 0x45 0x4d (fun a b => a &&& b ≠ 0) ∧
  Jump64Row .jne64 0x55 0x5d (fun a b => a ≠ b) ∧
  Jump64Row .jsgt64 0x65 0x6d (fun a b => a.toInt > b.toInt) ∧
  Jump64Row .jsge64 0x75 0x7d (fun a b => a.toInt ≥ b.toInt) ∧
  Jump64Row .jlt64 0xa5 0xad (fun a b => a.toNat < b.toNat) ∧
  Jump64Row .jle64 0xb5 0xbd (fun a b => a.toNat ≤ b.toNat) ∧
  Jump64Row .jslt64 0xc5 0xcd (fun a b => a.toInt < b.toInt) ∧
  Jump64Row .jsle64 0xd5 0xdd (fun a b => a.toInt ≤ b.toInt)

/-- O42. jeq32, jgt32, jge32, jset32, jne32, jsgt32, jsge32, jlt32, jle32, jslt32, jsle32 (R186 to
R214): the opcode bytes; taken exactly when the condition holds of the low 32 bits, to pc + 1 +
offset as SetPc does; else to the next slot; UninitRegister, taken or not, where an operand holds no
value. That the fields of the K form have src_reg zero, a field R100 leaves free, is the model's
choice (log 17). (41_jump.md section 1 (R180, R182), R186, R188, R190, R192, R194, R196, R198,
41_jump.md section 6 (R208, R210, R212, R214), notes/assumptions/17.md) -/
def Obligations.Jumps32 : Prop :=
  Jump32Row .jeq32 0x16 0x1e (fun a b => a = b) ∧
  Jump32Row .jgt32 0x26 0x2e (fun a b => a.toNat > b.toNat) ∧
  Jump32Row .jge32 0x36 0x3e (fun a b => a.toNat ≥ b.toNat) ∧
  Jump32Row .jset32 0x46 0x4e (fun a b => a &&& b ≠ 0) ∧
  Jump32Row .jne32 0x56 0x5e (fun a b => a ≠ b) ∧
  Jump32Row .jsgt32 0x66 0x6e (fun a b => a.toInt > b.toInt) ∧
  Jump32Row .jsge32 0x76 0x7e (fun a b => a.toInt ≥ b.toInt) ∧
  Jump32Row .jlt32 0xa6 0xae (fun a b => a.toNat < b.toNat) ∧
  Jump32Row .jle32 0xb6 0xbe (fun a b => a.toNat ≤ b.toNat) ∧
  Jump32Row .jslt32 0xc6 0xce (fun a b => a.toInt < b.toInt) ∧
  Jump32Row .jsle32 0xd6 0xde (fun a b => a.toInt ≤ b.toInt)

/-- O43. When ja, ja32 or a conditional jump gives a next state, that state is the old one with
another pc, which is pc + 1 or a slot of the program that is not the second slot of a wide
instruction. (R181, R182) -/
def Obligations.JumpFrame : Prop :=
  ∀ (i : Instr) (s t : State), exec i s = .next t → i.family = .jump →
    t = { s with pc := t.pc } ∧
    (t.pc = s.pc + 1 ∨ (t.pc < s.program.length ∧ secondSlot s.program t.pc = false)) ∧
    t.regs = s.regs ∧ KeepsBytes s t

/-- O44. An id not offered faults UnknownHelper, or Unsupported for a BTF id; a needed argument that
holds no value faults UninitRegister; else the call has one of the outcomes of the helper the id
maps to on R1 to R5, memory and MEMMAP, and each of them for some choice of the platform: a return
leaves R0 the result, R1 to R5 without value, R6 to R10 and the call stack unchanged, memory and
MEMMAP the helper's; a fault is reported at the call; a helper that leaves is refused. Where every
outcome is a return the call goes on. The model's choices: how a helper, its outcomes and the
platform's choice stand in State (log 9), and that the first missing argument of the helper's own
list is reported, before any outcome (log 19). (R199, R200, R201, R204, R308, R322,
notes/assumptions/9.md, notes/assumptions/19.md) -/
def Obligations.HelperCalls : Prop :=
  HelperRow .callHelper 0 (·.helpers) (fun pc id => .unknownHelper pc id) ∧
  HelperRow .callBtf 2 (·.helpersBtf) (fun pc _ => .unsupported pc .callByBtfId)

/-- O45. When call_helper or call_btf gives a next state, R0 holds a value, R1 to R5 hold none, R6
to R10, the call stack, the program, the parameters and the status are as before and pc has advanced
by one; memory and MEMMAP may be changed by the helper. (R23, R201) -/
def Obligations.HelperFrame : Prop :=
  ∀ (i : Instr) (s t : State), exec i s = .next t → i.family = .helperCall →
    (∃ v, t.reg 0 = .value v) ∧ (∀ r ∈ ([1, 2, 3, 4, 5] : List Reg), t.reg r = .noValue) ∧
    KeepsRegsBut s t [0, 1, 2, 3, 4, 5] ∧ t.callStack = s.callStack ∧ t.pc = s.pc + 1 ∧
    t.program = s.program ∧ t.params = s.params ∧ t.status = s.status ∧ t.memSeed = s.memSeed

/-- O46. A call that would exceed MAX_CALL_DEPTH faults CallDepth, else a target outside the program
PcOutOfRange, else a second slot JumpIntoWide, each changing nothing; else the frame (pc + 1 and the
contents of R6 to R10) is pushed, R10 is FRAME_FP of the new depth, R0 and R6 to R9 hold no value,
R1 to R5 keep their contents, pc is the target, and nothing else changes. That an R10 that holds no
value, which no run reaches, is saved as it is, is the model's reading (log 13), and so is FRAME_FP
of a frame that a table of the platform does not list (log 12). (R202, R203,
notes/assumptions/12.md, notes/assumptions/13.md) -/
def Obligations.LocalCall : Prop :=
  ∀ (imm : BitVec 32) (s : State),
    let t := (s.pc : Int) + 1 + imm.toInt
    (Instr.callLocal imm).fields = ⟨0x85, 0, 1, 0, imm⟩ ∧
    (s.callStack.length + 2 > s.params.maxCallDepth →
      exec (.callLocal imm) s = .fault (.callDepth s.pc)) ∧
    (s.callStack.length + 2 ≤ s.params.maxCallDepth →
      (t < 0 ∨ (s.program.length : Int) ≤ t →
        exec (.callLocal imm) s = .fault (.pcOutOfRange s.pc t)) ∧
      (∀ k : Nat, t = k → k < s.program.length → secondSlot s.program k = true →
        exec (.callLocal imm) s = .fault (.jumpIntoWide s.pc k)) ∧
      (∀ k : Nat, t = k → k < s.program.length → secondSlot s.program k = false →
        ∃ u, exec (.callLocal imm) s = .next u ∧
          u.callStack =
            ⟨s.pc + 1, s.reg 6, s.reg 7, s.reg 8, s.reg 9, s.reg 10⟩ :: s.callStack ∧
          u.reg 10 = .value (framePointer s.params (s.callStack.length + 1)) ∧
          (∀ r ∈ ([0, 6, 7, 8, 9] : List Reg), u.reg r = .noValue) ∧
          (∀ r ∈ ([1, 2, 3, 4, 5] : List Reg), u.reg r = s.reg r) ∧
          u.pc = k ∧ u.mem = s.mem ∧ KeepsBytes s u ∧ KeepsRun s u))

/-- O47. exit faults UninitRegister(0) when R0 holds no value; with an empty call stack it makes the
status Exited of the value of R0 and changes nothing else; else it pops the newest frame, restores
R6 to R10 from it, leaves R1 to R5 without value and R0 as it was, and goes to the return slot,
unchecked. R205 writes no pc at the outermost exit; that pc stays there is the model's reading (log
20). (R205, notes/assumptions/20.md) -/
def Obligations.Exit : Prop :=
  ∀ s : State,
    Instr.exit.fields = ⟨0x95, 0, 0, 0, 0⟩ ∧
    (s.reg 0 = .noValue → exec .exit s = .fault (.uninitRegister s.pc 0)) ∧
    ∀ v, s.reg 0 = .value v →
      (s.callStack = [] → exec .exit s = .next { s with status := .exited v }) ∧
      (∀ f rest, s.callStack = f :: rest →
        ∃ t, exec .exit s = .next t ∧ t.callStack = rest ∧ t.pc = f.ret ∧ t.reg 0 = .value v ∧
          (∀ r ∈ ([1, 2, 3, 4, 5] : List Reg), t.reg r = .noValue) ∧
          t.reg 6 = f.r6 ∧ t.reg 7 = f.r7 ∧ t.reg 8 = f.r8 ∧ t.reg 9 = f.r9 ∧
          t.reg 10 = f.r10 ∧ t.mem = s.mem ∧ KeepsBytes s t ∧ KeepsRun s t)

/-- O48. When call_local takes s to t, and u is any running state with the call stack of t and a
value in R0, then exit in u goes on at the slot after the call with the call stack of s, R6 to R10
as they were in s, R0 as it is in u, R1 to R5 without value, and memory as in u. For an R10 that
holds no value, which no run reaches, this is the model's reading (log 13). (R23, R202, R205, R206,
notes/assumptions/13.md) -/
def Obligations.CallThenExit : Prop :=
  ∀ (imm : BitVec 32) (s t u : State) (v : Word),
    exec (.callLocal imm) s = .next t → u.callStack = t.callStack → u.reg 0 = .value v →
    ∃ w, exec .exit u = .next w ∧ w.pc = s.pc + 1 ∧ w.callStack = s.callStack ∧
      w.reg 0 = .value v ∧ (∀ r ∈ ([6, 7, 8, 9, 10] : List Reg), w.reg r = s.reg r) ∧
      (∀ r ∈ ([1, 2, 3, 4, 5] : List Reg), w.reg r = .noValue) ∧ KeepsBytes u w ∧ KeepsRun u w

/-- O49. With the default layout and room for all frames below FP0, frame d has FRAME_FP(d) = FP0 -
d * STACK_SIZE with no wrap, the stack of a deeper frame lies wholly below that of a shallower one,
and every frame's stack lies in [FP0 - MAX_CALL_DEPTH * STACK_SIZE, FP0). (R34, R203) -/
def Obligations.FramesAreDisjoint : Prop :=
  ∀ (p : Params) (d e : Nat), p.frameLayout = .descending →
    p.maxCallDepth * p.stackSize ≤ p.fp0.toNat → d < e → e < p.maxCallDepth →
    (framePointer p d).toNat = p.fp0.toNat - d * p.stackSize ∧
    (framePointer p e).toNat = p.fp0.toNat - e * p.stackSize ∧
    (framePointer p e).toNat + p.stackSize ≤ (framePointer p d).toNat ∧
    (stackRange p).base + p.stackSize ≤ (framePointer p e).toNat ∧
    (framePointer p d).toNat ≤ (stackRange p).base + (stackRange p).size

/-- O50. ldxw, ldxh, ldxb, ldxdw zero-extend and ldxsw, ldxsh, ldxsb sign-extend the value that the
bytes at base + sext(offset) spell in HOST_ENDIAN order; UninitRegister where the base holds no
value, then past the top of the address space, then Misaligned under the strict policy, then
MemAccess outside Readable. (R52, R53, R55, R57, R222, R224, R225, R226, R227, R240, R241, R242) -/
def Obligations.Loads : Prop :=
  LoadRow .ldxw 0x61 32 (fun v => v.zeroExtend 64) ∧
  LoadRow .ldxh 0x69 16 (fun v => v.zeroExtend 64) ∧
  LoadRow .ldxb 0x71 8 (fun v => v.zeroExtend 64) ∧
  LoadRow .ldxdw 0x79 64 (fun v => v) ∧
  LoadRow .ldxsw 0x81 32 (fun v => v.signExtend 64) ∧
  LoadRow .ldxsh 0x89 16 (fun v => v.signExtend 64) ∧
  LoadRow .ldxsb 0x91 8 (fun v => v.signExtend 64)

/-- O51. stw, sth, stb, stdw store the low bits of the sign-extended imm, stxw, stxh, stxb, stxdw
the low bits of the source register, as bytes in HOST_ENDIAN order at base + sext(offset); every
other byte and every register is unchanged; UninitRegister for base, then source; then the faults of
MemWrite in order. (R52, R53, R56, R223, R228, R229, R230, R231, R232, R233, R234, R235) -/
def Obligations.Stores : Prop :=
  StoreImmRow .stw 0x62 32 ∧ StoreImmRow .sth 0x6a 16 ∧ StoreImmRow .stb 0x72 8 ∧
  StoreImmRow .stdw 0x7a 64 ∧
  StoreRegRow .stxw 0x63 32 ∧ StoreRegRow .stxh 0x6b 16 ∧ StoreRegRow .stxb 0x73 8 ∧
  StoreRegRow .stxdw 0x7b 64

/-- O52. When a store, an atomic or CMPXCHG gives a next state, the base register held a value b,
every byte outside the access at b + sext(offset), of the width of the form, reads as before, every
register but the result register (src of a FETCH form or XCHG, R0 of CMPXCHG, none else) is
unchanged, and so are the call stack, MEMMAP, the program, the parameters and the status. (R52, R58,
R223, R251, R252, R253) -/
def Obligations.MemoryFrame : Prop :=
  ∀ (i : Instr) (s t : State) (m : MemOperand), exec i s = .next t → i.memOperand = some m →
    (i.family = .store ∨ i.family = .atomic ∨ i.family = .compareExchange) →
    (∃ b, s.reg m.base = .value b ∧
      KeepsBytesOutside s t (effectiveAddress b m.off).toNat m.size) ∧
    (i.family ≠ .compareExchange → KeepsRegsBut s t i.writes.toList) ∧
    (i.family = .compareExchange → KeepsRegsBut s t [0]) ∧
    t.callStack = s.callStack ∧ t.pc = s.pc + 1 ∧ KeepsRun s t

/-- O53. When the access may write and read, stxb, stxh, stxw, stxdw complete, and a load of the
same width through the same base and offset from the state after the store gives the low bits
stored, zero-extended by the regular load and sign-extended by the sign-extending one. (R53, R61,
R70, R224, R225, R226, R227, R240, R232, R235) -/
def Obligations.StoreThenLoad : Prop :=
  ∀ (base src dst : Reg) (off : BitVec 16) (s : State) (b v : Word),
    s.reg base = .value b → s.reg src = .value v →
    (∀ n, (n = 1 ∨ n = 2 ∨ n = 4 ∨ n = 8) →
      PlainAllowed s s.memMap.writable (b + off.signExtend 64) n →
      PlainAllowed s s.memMap.readable (b + off.signExtend 64) n →
      ∃ t, exec (if n = 1 then .stxb base off src else if n = 2 then .stxh base off src
          else if n = 4 then .stxw base off src else .stxdw base off src) s = .next t ∧
        (n = 1 → exec (.ldxb dst base off) t =
            .next ((t.writeReg dst ((v.extractLsb' 0 8).zeroExtend 64)).advance 1) ∧
          exec (.ldxsb dst base off) t =
            .next ((t.writeReg dst ((v.extractLsb' 0 8).signExtend 64)).advance 1)) ∧
        (n = 2 → exec (.ldxh dst base off) t =
            .next ((t.writeReg dst ((v.extractLsb' 0 16).zeroExtend 64)).advance 1) ∧
          exec (.ldxsh dst base off) t =
            .next ((t.writeReg dst ((v.extractLsb' 0 16).signExtend 64)).advance 1)) ∧
        (n = 4 → exec (.ldxw dst base off) t =
            .next ((t.writeReg dst ((v.extractLsb' 0 32).zeroExtend 64)).advance 1) ∧
          exec (.ldxsw dst base off) t =
            .next ((t.writeReg dst ((v.extractLsb' 0 32).signExtend 64)).advance 1)) ∧
        (n = 8 → exec (.ldxdw dst base off) t = .next ((t.writeReg dst v).advance 1)))

/-- O54. After an allowed write of one width, an allowed read of any width gives the value that the
bytes at its addresses spell, those of the write and the older ones alike; after a write of
0x1122334455667788 the reads of one byte at a, two at a + 2 and four at a + 4 give 0x88, 0x5566,
0x11223344 on a little-endian host and 0x11, 0x3344, 0x55667788 on a big-endian one. (R59) -/
def Obligations.MixedWidthAccess : Prop :=
  (∀ (s : State) (a c : Word) (w w' : Nat) (v : BitVec w),
    w ∈ [8, 16, 32, 64] → w' ∈ [8, 16, 32, 64] →
    PlainAllowed s s.memMap.writable a (w / 8) → PlainAllowed s s.memMap.readable c (w' / 8) →
    ∃ t u, memWrite s a v = .ok t ∧ Spells t a.toNat v ∧
      KeepsBytesOutside s t a.toNat (w / 8) ∧ memRead t c w' = .ok u ∧ Spells t c.toNat u) ∧
  (∀ (s t : State) (a : Word), PlainAllowed s s.memMap.readable a 8 → a.toNat % 8 = 0 →
    memWrite s a (0x1122334455667788 : BitVec 64) = .ok t →
    memRead t a 8 = .ok (match s.params.hostEndian with | .le => 0x88 | .be => 0x11) ∧
    memRead t (a + 2) 16 = .ok (match s.params.hostEndian with | .le => 0x5566 | .be => 0x3344) ∧
    memRead t (a + 4) 32 =
      .ok (match s.params.hostEndian with | .le => 0x11223344 | .be => 0x55667788))

/-- O55. atomic_add, or, and, xor of 32 and 64 bits: opcode byte and imm; memory at base +
sext(offset) then spells the old value combined with the low bits of src, every other byte and every
register unchanged; UninitRegister for base, then src, then Misaligned under either policy, then
MemAccess read, then write. (R250, R251, R252, R254, R255, R256, R257, R258, R259, R260, R261) -/
def Obligations.AtomicUpdates : Prop :=
  AtomicRow .atomicAdd32 0xc3 0x00 32 (fun old v => old + v) ∧
  AtomicRow .atomicAdd64 0xdb 0x00 64 (fun old v => old + v) ∧
  AtomicRow .atomicOr32 0xc3 0x40 32 (fun old v => old ||| v) ∧
  AtomicRow .atomicOr64 0xdb 0x40 64 (fun old v => old ||| v) ∧
  AtomicRow .atomicAnd32 0xc3 0x50 32 (fun old v => old &&& v) ∧
  AtomicRow .atomicAnd64 0xdb 0x50 64 (fun old v => old &&& v) ∧
  AtomicRow .atomicXor32 0xc3 0xa0 32 (fun old v => old ^^^ v) ∧
  AtomicRow .atomicXor64 0xdb 0xa0 64 (fun old v => old ^^^ v)

/-- O56. atomic_fetch_add, or, and, xor and atomic_xchg of 32 and 64 bits: opcode byte and imm;
memory then spells the new value, src receives the old value zero-extended, every other register and
byte is unchanged; the faults of R251 in order. src may be the base: the address is that of the old
value. (R251, R252, R262, R263, R264, R265, R266, R267, R268, R269, R270, R271) -/
def Obligations.AtomicFetches : Prop :=
  AtomicFetchRow .atomicFetchAdd32 0xc3 0x01 32 (fun old v => old + v) ∧
  AtomicFetchRow .atomicFetchAdd64 0xdb 0x01 64 (fun old v => old + v) ∧
  AtomicFetchRow .atomicFetchOr32 0xc3 0x41 32 (fun old v => old ||| v) ∧
  AtomicFetchRow .atomicFetchOr64 0xdb 0x41 64 (fun old v => old ||| v) ∧
  AtomicFetchRow .atomicFetchAnd32 0xc3 0x51 32 (fun old v => old &&& v) ∧
  AtomicFetchRow .atomicFetchAnd64 0xdb 0x51 64 (fun old v => old &&& v) ∧
  AtomicFetchRow .atomicFetchXor32 0xc3 0xa1 32 (fun old v => old ^^^ v) ∧
  AtomicFetchRow .atomicFetchXor64 0xdb 0xa1 64 (fun old v => old ^^^ v) ∧
  AtomicFetchRow .atomicXchg32 0xc3 0xe1 32 (fun _ v => v) ∧
  AtomicFetchRow .atomicXchg64 0xdb 0xe1 64 (fun _ v => v)

/-- O57. atomic_cmpxchg32 and 64: base, src and R0 are read in that order; on a match of the old
value with the low bits of R0 memory spells the low bits of src, else no byte changes; either way R0
receives the old value zero-extended and no other register changes; the faults of R251 in order, for
a failing comparison too. (R251, R253, R272, R273, R274) -/
def Obligations.CompareExchange : Prop :=
  CompareExchangeRow .atomicCmpxchg32 0xc3 0xf1 32 ∧
  CompareExchangeRow .atomicCmpxchg64 0xdb 0xf1 64

/-- O58. lddw takes two slots, subtype 0, and from every state goes on past both with the
destination holding next_imm shifted left by 32 or-ed with imm, each zero-extended; it never faults
once decoded. (R281) -/
def Obligations.LoadImmediate64 : Prop :=
  ∀ (dst : Reg) (imm next : BitVec 32) (s : State),
    (Instr.lddw dst imm next).fields = ⟨0x18, fieldOfReg dst, 0, 0, imm⟩ ∧
    (Instr.lddw dst imm next).wide = true ∧ (Instr.lddw dst imm next).nextImm = next ∧
    exec (.lddw dst imm next) s =
      .next ((s.writeReg dst ((next.zeroExtend 64 <<< 32) ||| imm.zeroExtend 64)).advance 2)

/-- O59. ld_map_fd, ld_map_val_fd, ld_var_addr, ld_code_addr, ld_map_idx, ld_map_val_idx: subtype 1
to 6, the destination receives what the platform function gives (for the map values, with next_imm
added, sign-extended, modulo 2^64) and both slots are passed; where the function is undefined the
instruction faults Unsupported naming it. In subtypes 1, 3, 4, 5 a non-zero next_imm is an illegal
encoding. By default every platform function is nowhere defined. (R282, R283, R284, R285, R286,
R287) -/
def Obligations.PlatformLoads : Prop :=
  ∀ (dst : Reg) (imm next : BitVec 32),
    PlatformRow (.ldMapFd dst imm) dst 1 imm 0 (fun s => s.params.mapByFd.lookup imm) .mapByFd ∧
    PlatformRow (.ldMapValFd dst imm next) dst 2 imm next
      (fun s => ((s.params.mapByFd.lookup imm).bind fun m => s.params.mapVal.lookup m).map
        fun v => v + next.signExtend 64) .mapVal ∧
    PlatformRow (.ldVarAddr dst imm) dst 3 imm 0 (fun s => s.params.varAddr.lookup imm) .varAddr ∧
    PlatformRow (.ldCodeAddr dst imm) dst 4 imm 0
      (fun s => s.params.codeAddr.lookup (s.pc, imm.toInt)) .codeAddr ∧
    PlatformRow (.ldMapIdx dst imm) dst 5 imm 0
      (fun s => s.params.mapByIdx.lookup imm) .mapByIdx ∧
    PlatformRow (.ldMapValIdx dst imm next) dst 6 imm next
      (fun s => ((s.params.mapByIdx.lookup imm).bind fun m => s.params.mapVal.lookup m).map
        fun v => v + next.signExtend 64) .mapVal ∧
    (∀ (e : Endian) (groups : List Group) (a b : Slot), a.b0 = 0x18 →
      (a.fields e).src = 1 ∨ (a.fields e).src = 3 ∨ (a.fields e).src = 4 ∨ (a.fields e).src = 5 →
      (b.fields e).imm ≠ 0 → decode e groups a (some b) = .error .illegalEncoding) ∧
    Params.default.mapByFd = [] ∧ Params.default.mapByIdx = [] ∧ Params.default.mapVal = [] ∧
    Params.default.varAddr = [] ∧ Params.default.codeAddr = []
end

