-- ==== Sys2Proof/Laws/Encoding.lean ====
section
/-! SUPPORT. Slots and fields spell each other, register fields spell registers, and each form of the
decoder reads the fields the encoder writes for it. -/

namespace Sys2Proof

/-! ### Bits of a concatenation -/

theorem extractLsb'_append_low {w n : Nat} (a : BitVec w) (b : BitVec n) :
    (a ++ b).extractLsb' 0 n = b := by
  ext i hi
  simp [BitVec.getElem_extractLsb', BitVec.getLsbD_append, hi]

theorem extractLsb'_append_high {w n : Nat} (a : BitVec w) (b : BitVec n) :
    (a ++ b).extractLsb' n w = a := by
  ext i hi
  simp [BitVec.getElem_extractLsb', BitVec.getLsbD_append, hi]

theorem extractLsb'_append_above {w n : Nat} (k m : Nat) (a : BitVec w) (b : BitVec n) :
    (a ++ b).extractLsb' (n + k) m = a.extractLsb' k m := by
  ext i hi
  simp only [BitVec.getElem_extractLsb', BitVec.getLsbD_append]
  rw [if_neg (by omega)]
  congr 1
  omega

/-- Four bytes joined give each byte back. -/
theorem extractLsb'_four (a b c d : BitVec 8) :
    (a ++ b ++ c ++ d).extractLsb' 24 8 = a ∧ (a ++ b ++ c ++ d).extractLsb' 16 8 = b ∧
      (a ++ b ++ c ++ d).extractLsb' 8 8 = c := by
  refine ⟨?_, ?_, ?_⟩
  · rw [extractLsb'_append_above (n := 8) 16, extractLsb'_append_above (n := 8) 8,
      extractLsb'_append_high]
  · rw [extractLsb'_append_above (n := 8) 8, extractLsb'_append_above (n := 8) 0,
      extractLsb'_append_low]
  · rw [extractLsb'_append_above (n := 8) 0, extractLsb'_append_low]

theorem join_two_bytes (v : BitVec 16) : v.extractLsb' 8 8 ++ v.extractLsb' 0 8 = v := by
  ext i hi
  simp only [BitVec.getElem_append, BitVec.getElem_extractLsb']
  interval_cases i <;> simp

theorem join_four_bytes (v : BitVec 32) :
    v.extractLsb' 24 8 ++ v.extractLsb' 16 8 ++ v.extractLsb' 8 8 ++ v.extractLsb' 0 8 = v := by
  ext i hi
  simp only [BitVec.getElem_append, BitVec.getElem_extractLsb']
  interval_cases i <;> simp

theorem join_two_nibbles (v : BitVec 8) : v.extractLsb' 4 4 ++ v.extractLsb' 0 4 = v := by
  ext i hi
  simp only [BitVec.getElem_append, BitVec.getElem_extractLsb']
  interval_cases i <;> simp

/-! ### Slots and fields -/

/-- The slot that spells some fields holds those fields, in either byte order. -/
@[simp] theorem Slot.fields_toSlot (e : Endian) (f : Fields) : (f.toSlot e).fields e = f := by
  obtain ⟨op, d, s, off, imm⟩ := f
  cases e <;> simp only [Fields.toSlot, Slot.fields, extractLsb'_append_low,
    extractLsb'_append_high, join_two_bytes, join_four_bytes]

/-- The fields of a slot spell that slot, in either byte order. -/
@[simp] theorem Fields.toSlot_fields (e : Endian) (a : Slot) : (a.fields e).toSlot e = a := by
  obtain ⟨b0, b1, b2, b3, b4, b5, b6, b7⟩ := a
  obtain ⟨h1, h2, h3⟩ := extractLsb'_four b7 b6 b5 b4
  obtain ⟨g1, g2, g3⟩ := extractLsb'_four b4 b5 b6 b7
  cases e <;> simp only [Fields.toSlot, Slot.fields, extractLsb'_append_low,
    extractLsb'_append_high, join_two_nibbles, h1, h2, h3, g1, g2, g3]

/-- The opcode byte is the first byte of the slot in either byte order (20_memory.md R54). -/
@[simp] theorem Slot.fields_opcode (e : Endian) (a : Slot) : (a.fields e).opcode = a.b0 := by
  cases e <;> rfl

@[simp] theorem Fields.toSlot_b0 (e : Endian) (f : Fields) : (f.toSlot e).b0 = f.opcode := by
  cases e <;> rfl

theorem append_eq_zero {m n : Nat} (x : BitVec m) (y : BitVec n) : x ++ y = 0 ↔ x = 0 ∧ y = 0 := by
  constructor
  · intro h
    refine ⟨?_, ?_⟩
    · rw [← extractLsb'_append_high x y, h]
      simp
    · rw [← extractLsb'_append_low x y, h]
      simp
  · rintro ⟨rfl, rfl⟩
    simp

/-- The reserved bits of a second slot are zero exactly when every field but `imm` is. -/
theorem Slot.reservedZero_iff (e : Endian) (a : Slot) :
    a.reservedZero = true ↔ a.fields e = ⟨0, 0, 0, 0, (a.fields e).imm⟩ := by
  obtain ⟨b0, b1, b2, b3, b4, b5, b6, b7⟩ := a
  have h1 : b1 = 0 ↔ b1.extractLsb' 4 4 = 0 ∧ b1.extractLsb' 0 4 = 0 := by
    rw [← append_eq_zero, join_two_nibbles]
  have h2 := append_eq_zero b2 b3
  have h3 := append_eq_zero b3 b2
  cases e
  · simp only [Slot.reservedZero, Slot.fields, Fields.mk.injEq, Bool.and_eq_true, beq_iff_eq,
      and_true]
    constructor
    · rintro ⟨⟨⟨g0, g1⟩, g2⟩, g3⟩
      exact ⟨g0, (h1.1 g1).2, (h1.1 g1).1, h3.2 ⟨g3, g2⟩⟩
    · rintro ⟨g0, g1, g2, g3⟩
      exact ⟨⟨⟨g0, h1.2 ⟨g2, g1⟩⟩, (h3.1 g3).2⟩, (h3.1 g3).1⟩
  · simp only [Slot.reservedZero, Slot.fields, Fields.mk.injEq, Bool.and_eq_true, beq_iff_eq,
      and_true]
    constructor
    · rintro ⟨⟨⟨g0, g1⟩, g2⟩, g3⟩
      exact ⟨g0, (h1.1 g1).1, (h1.1 g1).2, h2.2 ⟨g2, g3⟩⟩
    · rintro ⟨g0, g1, g2, g3⟩
      exact ⟨⟨⟨g0, h1.2 ⟨g1, g2⟩⟩, (h2.1 g3).1⟩, (h2.1 g3).2⟩

/-! ### Register fields -/

@[simp] theorem regOfField_fieldOfReg (r : Reg) : regOfField (fieldOfReg r) = some r := by
  revert r; decide

theorem fieldOfReg_of_regOfField {v : BitVec 4} {r : Reg} (h : regOfField v = some r) :
    fieldOfReg r = v := by
  revert v r; decide

theorem regOfField_none {v : BitVec 4} : regOfField v = none ↔ 11 ≤ v.toNat := by
  unfold regOfField
  split <;> simp <;> omega

/-! ### Each form of the decoder reads the fields written for it -/

/-- The source bit of an assembled opcode byte. -/
theorem opcodeOf_s (code : BitVec 4) (s : BitVec 1) (cls : BitVec 3) :
    (opcodeOf code s cls).extractLsb' 3 1 = s := by
  rw [opcodeOf, extractLsb'_append_above (n := 3) 0, extractLsb'_append_low]

theorem Fields.twoOperand_ofTwoOperand (c : Reg → Src → Instr) (code : BitVec 4) (cls : BitVec 3)
    (off : BitVec 16) (dst : Reg) (src : Src) :
    (Fields.ofTwoOperand code cls off dst src).twoOperand c = some (c dst src) := by
  cases src <;>
    simp [Fields.ofTwoOperand, Fields.twoOperand, Fields.s, opcodeOf_s]

theorem Fields.conditional_ofConditional (c : Reg → Src → BitVec 16 → Instr) (code : BitVec 4)
    (cls : BitVec 3) (dst : Reg) (src : Src) (off : BitVec 16) :
    (Fields.ofConditional code cls dst src off).conditional c = some (c dst src off) := by
  cases src <;>
    simp [Fields.ofConditional, Fields.conditional, Fields.s, opcodeOf_s]

theorem registerMove_fields (c : Reg → Reg → Instr) (op : BitVec 8) (off : BitVec 16)
    (dst src : Reg) {f : Fields} (hf : f = ⟨op, fieldOfReg dst, fieldOfReg src, off, 0⟩)
    (hs : op.extractLsb' 3 1 = 1) : f.registerMove c = some (c dst src) := by
  subst hf
  simp [Fields.registerMove, Fields.s, hs]

theorem load_fields (c : Reg → Reg → BitVec 16 → Instr) (op : BitVec 8) (dst base : Reg)
    (off : BitVec 16) :
    Fields.load ⟨op, fieldOfReg dst, fieldOfReg base, off, 0⟩ c = some (c dst base off) := by
  simp [Fields.load]

theorem storeImm_fields (c : Reg → BitVec 16 → BitVec 32 → Instr) (op : BitVec 8) (base : Reg)
    (off : BitVec 16) (imm : BitVec 32) :
    Fields.storeImm ⟨op, fieldOfReg base, 0, off, imm⟩ c = some (c base off imm) := by
  simp [Fields.storeImm]

theorem storeReg_fields (c : Reg → BitVec 16 → Reg → Instr) (op : BitVec 8) (base : Reg)
    (off : BitVec 16) (src : Reg) :
    Fields.storeReg ⟨op, fieldOfReg base, fieldOfReg src, off, 0⟩ c = some (c base off src) := by
  simp [Fields.storeReg]

theorem atomic_fields (c : Reg → BitVec 16 → Reg → Instr) (op : BitVec 8) (imm : BitVec 32)
    (base : Reg) (off : BitVec 16) (src : Reg) :
    Fields.atomic ⟨op, fieldOfReg base, fieldOfReg src, off, imm⟩ c = some (c base off src) := by
  simp [Fields.atomic]

end Sys2Proof
end

