-- ==== Sys2Proof/Laws/State.lean ====
section
/-! SUPPORT. The fields and the registers after each update of the state: one lemma per field per
update, so that no proof unfolds an update. -/

namespace Sys2Proof.Machine

/-! ### Updates that are one record update -/

@[simp] theorem State.setReg_pc (s : State) (r : Reg) (c : RegContent) : (s.setReg r c).pc = s.pc := rfl
@[simp] theorem State.setReg_callStack (s : State) (r : Reg) (c : RegContent) : (s.setReg r c).callStack = s.callStack := rfl
@[simp] theorem State.setReg_mem (s : State) (r : Reg) (c : RegContent) : (s.setReg r c).mem = s.mem := rfl
@[simp] theorem State.setReg_memMap (s : State) (r : Reg) (c : RegContent) : (s.setReg r c).memMap = s.memMap := rfl
@[simp] theorem State.setReg_status (s : State) (r : Reg) (c : RegContent) : (s.setReg r c).status = s.status := rfl
@[simp] theorem State.setReg_program (s : State) (r : Reg) (c : RegContent) : (s.setReg r c).program = s.program := rfl
@[simp] theorem State.setReg_params (s : State) (r : Reg) (c : RegContent) : (s.setReg r c).params = s.params := rfl
@[simp] theorem State.setReg_answers (s : State) (r : Reg) (c : RegContent) : (s.setReg r c).answers = s.answers := rfl
@[simp] theorem State.setReg_draws (s : State) (r : Reg) (c : RegContent) : (s.setReg r c).draws = s.draws := rfl
@[simp] theorem State.setReg_memSeed (s : State) (r : Reg) (c : RegContent) : (s.setReg r c).memSeed = s.memSeed := rfl

@[simp] theorem State.writeReg_pc (s : State) (r : Reg) (v : Word) : (s.writeReg r v).pc = s.pc := rfl
@[simp] theorem State.writeReg_callStack (s : State) (r : Reg) (v : Word) : (s.writeReg r v).callStack = s.callStack := rfl
@[simp] theorem State.writeReg_mem (s : State) (r : Reg) (v : Word) : (s.writeReg r v).mem = s.mem := rfl
@[simp] theorem State.writeReg_memMap (s : State) (r : Reg) (v : Word) : (s.writeReg r v).memMap = s.memMap := rfl
@[simp] theorem State.writeReg_status (s : State) (r : Reg) (v : Word) : (s.writeReg r v).status = s.status := rfl
@[simp] theorem State.writeReg_program (s : State) (r : Reg) (v : Word) : (s.writeReg r v).program = s.program := rfl
@[simp] theorem State.writeReg_params (s : State) (r : Reg) (v : Word) : (s.writeReg r v).params = s.params := rfl
@[simp] theorem State.writeReg_answers (s : State) (r : Reg) (v : Word) : (s.writeReg r v).answers = s.answers := rfl
@[simp] theorem State.writeReg_draws (s : State) (r : Reg) (v : Word) : (s.writeReg r v).draws = s.draws := rfl
@[simp] theorem State.writeReg_memSeed (s : State) (r : Reg) (v : Word) : (s.writeReg r v).memSeed = s.memSeed := rfl

@[simp] theorem State.writeReg32_pc (s : State) (r : Reg) (v : Word32) : (s.writeReg32 r v).pc = s.pc := rfl
@[simp] theorem State.writeReg32_callStack (s : State) (r : Reg) (v : Word32) : (s.writeReg32 r v).callStack = s.callStack := rfl
@[simp] theorem State.writeReg32_mem (s : State) (r : Reg) (v : Word32) : (s.writeReg32 r v).mem = s.mem := rfl
@[simp] theorem State.writeReg32_memMap (s : State) (r : Reg) (v : Word32) : (s.writeReg32 r v).memMap = s.memMap := rfl
@[simp] theorem State.writeReg32_status (s : State) (r : Reg) (v : Word32) : (s.writeReg32 r v).status = s.status := rfl
@[simp] theorem State.writeReg32_program (s : State) (r : Reg) (v : Word32) : (s.writeReg32 r v).program = s.program := rfl
@[simp] theorem State.writeReg32_params (s : State) (r : Reg) (v : Word32) : (s.writeReg32 r v).params = s.params := rfl
@[simp] theorem State.writeReg32_answers (s : State) (r : Reg) (v : Word32) : (s.writeReg32 r v).answers = s.answers := rfl
@[simp] theorem State.writeReg32_draws (s : State) (r : Reg) (v : Word32) : (s.writeReg32 r v).draws = s.draws := rfl
@[simp] theorem State.writeReg32_memSeed (s : State) (r : Reg) (v : Word32) : (s.writeReg32 r v).memSeed = s.memSeed := rfl

@[simp] theorem State.advance_regs (s : State) (n : Nat) : (s.advance n).regs = s.regs := rfl
@[simp] theorem State.advance_callStack (s : State) (n : Nat) : (s.advance n).callStack = s.callStack := rfl
@[simp] theorem State.advance_mem (s : State) (n : Nat) : (s.advance n).mem = s.mem := rfl
@[simp] theorem State.advance_memMap (s : State) (n : Nat) : (s.advance n).memMap = s.memMap := rfl
@[simp] theorem State.advance_status (s : State) (n : Nat) : (s.advance n).status = s.status := rfl
@[simp] theorem State.advance_program (s : State) (n : Nat) : (s.advance n).program = s.program := rfl
@[simp] theorem State.advance_params (s : State) (n : Nat) : (s.advance n).params = s.params := rfl
@[simp] theorem State.advance_answers (s : State) (n : Nat) : (s.advance n).answers = s.answers := rfl
@[simp] theorem State.advance_draws (s : State) (n : Nat) : (s.advance n).draws = s.draws := rfl
@[simp] theorem State.advance_memSeed (s : State) (n : Nat) : (s.advance n).memSeed = s.memSeed := rfl

@[simp] theorem State.faulted_regs (s : State) (f : Fault) : (s.faulted f).regs = s.regs := rfl
@[simp] theorem State.faulted_pc (s : State) (f : Fault) : (s.faulted f).pc = s.pc := rfl
@[simp] theorem State.faulted_callStack (s : State) (f : Fault) : (s.faulted f).callStack = s.callStack := rfl
@[simp] theorem State.faulted_mem (s : State) (f : Fault) : (s.faulted f).mem = s.mem := rfl
@[simp] theorem State.faulted_memMap (s : State) (f : Fault) : (s.faulted f).memMap = s.memMap := rfl
@[simp] theorem State.faulted_program (s : State) (f : Fault) : (s.faulted f).program = s.program := rfl
@[simp] theorem State.faulted_params (s : State) (f : Fault) : (s.faulted f).params = s.params := rfl
@[simp] theorem State.faulted_answers (s : State) (f : Fault) : (s.faulted f).answers = s.answers := rfl
@[simp] theorem State.faulted_draws (s : State) (f : Fault) : (s.faulted f).draws = s.draws := rfl
@[simp] theorem State.faulted_memSeed (s : State) (f : Fault) : (s.faulted f).memSeed = s.memSeed := rfl

@[simp] theorem State.advance_pc (s : State) (n : Nat) : (s.advance n).pc = s.pc + n := rfl
@[simp] theorem State.faulted_status (s : State) (f : Fault) : (s.faulted f).status = .faulted f := rfl

/-! ### Storing a value -/

@[simp] theorem State.storeValue_regs (s : State) (a : Nat) {w : Nat} (v : BitVec w) :
    (s.storeValue a v).regs = s.regs := rfl
@[simp] theorem State.storeValue_pc (s : State) (a : Nat) {w : Nat} (v : BitVec w) :
    (s.storeValue a v).pc = s.pc := rfl
@[simp] theorem State.storeValue_callStack (s : State) (a : Nat) {w : Nat} (v : BitVec w) :
    (s.storeValue a v).callStack = s.callStack := rfl
@[simp] theorem State.storeValue_memMap (s : State) (a : Nat) {w : Nat} (v : BitVec w) :
    (s.storeValue a v).memMap = s.memMap := rfl
@[simp] theorem State.storeValue_status (s : State) (a : Nat) {w : Nat} (v : BitVec w) :
    (s.storeValue a v).status = s.status := rfl
@[simp] theorem State.storeValue_program (s : State) (a : Nat) {w : Nat} (v : BitVec w) :
    (s.storeValue a v).program = s.program := rfl
@[simp] theorem State.storeValue_params (s : State) (a : Nat) {w : Nat} (v : BitVec w) :
    (s.storeValue a v).params = s.params := rfl
@[simp] theorem State.storeValue_answers (s : State) (a : Nat) {w : Nat} (v : BitVec w) :
    (s.storeValue a v).answers = s.answers := rfl
@[simp] theorem State.storeValue_draws (s : State) (a : Nat) {w : Nat} (v : BitVec w) :
    (s.storeValue a v).draws = s.draws := rfl
@[simp] theorem State.storeValue_memSeed (s : State) (a : Nat) {w : Nat} (v : BitVec w) :
    (s.storeValue a v).memSeed = s.memSeed := rfl
@[simp] theorem State.storeValue_mem (s : State) (a : Nat) {w : Nat} (v : BitVec w) :
    (s.storeValue a v).mem = s.mem.setBytes a (unspell s.params.hostEndian (w / 8) v.toNat) := rfl

/-! ### Clearing registers -/

@[simp] theorem State.clearRegs_pc (s : State) (rs : List Reg) :
    (s.clearRegs rs).pc = s.pc := by
  induction rs generalizing s with
  | nil => rfl
  | cons r rs ih => exact ih (s.setReg r .noValue)

@[simp] theorem State.clearRegs_callStack (s : State) (rs : List Reg) :
    (s.clearRegs rs).callStack = s.callStack := by
  induction rs generalizing s with
  | nil => rfl
  | cons r rs ih => exact ih (s.setReg r .noValue)

@[simp] theorem State.clearRegs_mem (s : State) (rs : List Reg) :
    (s.clearRegs rs).mem = s.mem := by
  induction rs generalizing s with
  | nil => rfl
  | cons r rs ih => exact ih (s.setReg r .noValue)

@[simp] theorem State.clearRegs_memMap (s : State) (rs : List Reg) :
    (s.clearRegs rs).memMap = s.memMap := by
  induction rs generalizing s with
  | nil => rfl
  | cons r rs ih => exact ih (s.setReg r .noValue)

@[simp] theorem State.clearRegs_status (s : State) (rs : List Reg) :
    (s.clearRegs rs).status = s.status := by
  induction rs generalizing s with
  | nil => rfl
  | cons r rs ih => exact ih (s.setReg r .noValue)

@[simp] theorem State.clearRegs_program (s : State) (rs : List Reg) :
    (s.clearRegs rs).program = s.program := by
  induction rs generalizing s with
  | nil => rfl
  | cons r rs ih => exact ih (s.setReg r .noValue)

@[simp] theorem State.clearRegs_params (s : State) (rs : List Reg) :
    (s.clearRegs rs).params = s.params := by
  induction rs generalizing s with
  | nil => rfl
  | cons r rs ih => exact ih (s.setReg r .noValue)

@[simp] theorem State.clearRegs_answers (s : State) (rs : List Reg) :
    (s.clearRegs rs).answers = s.answers := by
  induction rs generalizing s with
  | nil => rfl
  | cons r rs ih => exact ih (s.setReg r .noValue)

@[simp] theorem State.clearRegs_draws (s : State) (rs : List Reg) :
    (s.clearRegs rs).draws = s.draws := by
  induction rs generalizing s with
  | nil => rfl
  | cons r rs ih => exact ih (s.setReg r .noValue)

@[simp] theorem State.clearRegs_memSeed (s : State) (rs : List Reg) :
    (s.clearRegs rs).memSeed = s.memSeed := by
  induction rs generalizing s with
  | nil => rfl
  | cons r rs ih => exact ih (s.setReg r .noValue)

/-! ### What a register holds after an update -/

/-- The register written holds the content, every other register what it held. -/
theorem State.reg_setReg (s : State) (r r' : Reg) (c : RegContent) :
    (s.setReg r c).reg r' = if r' = r then c else s.reg r' := by
  simp only [State.reg, State.setReg, Fin.getElem_fin, Vector.getElem_set, Fin.ext_iff]
  by_cases h : r.val = r'.val
  · simp [h]
  · simp [h, Ne.symm h]

@[simp] theorem State.reg_setReg_same (s : State) (r : Reg) (c : RegContent) :
    (s.setReg r c).reg r = c := by simp [State.reg_setReg]

@[simp] theorem State.reg_setReg_other (s : State) {r r' : Reg} (h : r' ≠ r) (c : RegContent) :
    (s.setReg r c).reg r' = s.reg r' := by simp [State.reg_setReg, h]

theorem State.reg_writeReg (s : State) (r r' : Reg) (v : Word) :
    (s.writeReg r v).reg r' = if r' = r then .value v else s.reg r' := s.reg_setReg r r' _

theorem State.reg_writeReg32 (s : State) (r r' : Reg) (v : Word32) :
    (s.writeReg32 r v).reg r' = if r' = r then .value (v.setWidth 64) else s.reg r' :=
  s.reg_setReg r r' _

@[simp] theorem State.reg_writeReg_same (s : State) (r : Reg) (v : Word) :
    (s.writeReg r v).reg r = .value v := s.reg_setReg_same r _

@[simp] theorem State.reg_writeReg_other (s : State) {r r' : Reg} (h : r' ≠ r) (v : Word) :
    (s.writeReg r v).reg r' = s.reg r' := s.reg_setReg_other h _

@[simp] theorem State.reg_writeReg32_same (s : State) (r : Reg) (v : Word32) :
    (s.writeReg32 r v).reg r = .value (v.setWidth 64) := s.reg_setReg_same r _

@[simp] theorem State.reg_writeReg32_other (s : State) {r r' : Reg} (h : r' ≠ r) (v : Word32) :
    (s.writeReg32 r v).reg r' = s.reg r' := s.reg_setReg_other h _

@[simp] theorem State.reg_advance (s : State) (n : Nat) (r : Reg) : (s.advance n).reg r = s.reg r :=
  rfl

@[simp] theorem State.reg_faulted (s : State) (f : Fault) (r : Reg) :
    (s.faulted f).reg r = s.reg r := rfl

@[simp] theorem State.reg_storeValue (s : State) (a : Nat) {w : Nat} (v : BitVec w) (r : Reg) :
    (s.storeValue a v).reg r = s.reg r := rfl

/-- Registers of the list hold no value, the others what they held. -/
theorem State.reg_clearRegs (s : State) (rs : List Reg) (r : Reg) :
    (s.clearRegs rs).reg r = if r ∈ rs then .noValue else s.reg r := by
  induction rs generalizing s with
  | nil => simp [State.clearRegs]
  | cons r' rs ih =>
    rw [State.clearRegs, ih, State.reg_setReg]
    by_cases h : r = r' <;> by_cases h' : r ∈ rs <;> simp [h, h']

/-! ### Entering a function, returning from it, coming back from a helper -/


@[simp] theorem State.enterFunction_pc (s : State) (t : Nat) :
    (s.enterFunction t).pc = t := rfl
@[simp] theorem State.enterFunction_callStack (s : State) (t : Nat) :
    (s.enterFunction t).callStack = s.callerFrame :: s.callStack := rfl
@[simp] theorem State.enterFunction_mem (s : State) (t : Nat) :
    (s.enterFunction t).mem = s.mem := rfl
@[simp] theorem State.enterFunction_memMap (s : State) (t : Nat) :
    (s.enterFunction t).memMap = s.memMap := rfl
@[simp] theorem State.enterFunction_status (s : State) (t : Nat) :
    (s.enterFunction t).status = s.status := rfl
@[simp] theorem State.enterFunction_program (s : State) (t : Nat) :
    (s.enterFunction t).program = s.program := rfl
@[simp] theorem State.enterFunction_params (s : State) (t : Nat) :
    (s.enterFunction t).params = s.params := rfl
@[simp] theorem State.enterFunction_answers (s : State) (t : Nat) :
    (s.enterFunction t).answers = s.answers := rfl
@[simp] theorem State.enterFunction_draws (s : State) (t : Nat) :
    (s.enterFunction t).draws = s.draws := rfl
@[simp] theorem State.enterFunction_memSeed (s : State) (t : Nat) :
    (s.enterFunction t).memSeed = s.memSeed := rfl

@[simp] theorem State.leaveFunction_pc (s : State) (f : Frame) (rest : List Frame) :
    (s.leaveFunction f rest).pc = f.ret := rfl
@[simp] theorem State.leaveFunction_callStack (s : State) (f : Frame) (rest : List Frame) :
    (s.leaveFunction f rest).callStack = rest := rfl
@[simp] theorem State.leaveFunction_mem (s : State) (f : Frame) (rest : List Frame) :
    (s.leaveFunction f rest).mem = s.mem := rfl
@[simp] theorem State.leaveFunction_memMap (s : State) (f : Frame) (rest : List Frame) :
    (s.leaveFunction f rest).memMap = s.memMap := rfl
@[simp] theorem State.leaveFunction_status (s : State) (f : Frame) (rest : List Frame) :
    (s.leaveFunction f rest).status = s.status := rfl
@[simp] theorem State.leaveFunction_program (s : State) (f : Frame) (rest : List Frame) :
    (s.leaveFunction f rest).program = s.program := rfl
@[simp] theorem State.leaveFunction_params (s : State) (f : Frame) (rest : List Frame) :
    (s.leaveFunction f rest).params = s.params := rfl
@[simp] theorem State.leaveFunction_answers (s : State) (f : Frame) (rest : List Frame) :
    (s.leaveFunction f rest).answers = s.answers := rfl
@[simp] theorem State.leaveFunction_draws (s : State) (f : Frame) (rest : List Frame) :
    (s.leaveFunction f rest).draws = s.draws := rfl
@[simp] theorem State.leaveFunction_memSeed (s : State) (f : Frame) (rest : List Frame) :
    (s.leaveFunction f rest).memSeed = s.memSeed := rfl

@[simp] theorem State.afterHelper_pc (s : State) (r : HelperReturn) :
    (s.afterHelper r).pc = s.pc + 1 := rfl
@[simp] theorem State.nextDraw_regs (s : State) : s.nextDraw.regs = s.regs := rfl
@[simp] theorem State.nextDraw_pc (s : State) : s.nextDraw.pc = s.pc := rfl
@[simp] theorem State.nextDraw_callStack (s : State) : s.nextDraw.callStack = s.callStack := rfl
@[simp] theorem State.nextDraw_mem (s : State) : s.nextDraw.mem = s.mem := rfl
@[simp] theorem State.nextDraw_memMap (s : State) : s.nextDraw.memMap = s.memMap := rfl
@[simp] theorem State.nextDraw_status (s : State) : s.nextDraw.status = s.status := rfl
@[simp] theorem State.nextDraw_program (s : State) : s.nextDraw.program = s.program := rfl
@[simp] theorem State.nextDraw_params (s : State) : s.nextDraw.params = s.params := rfl
@[simp] theorem State.nextDraw_memSeed (s : State) : s.nextDraw.memSeed = s.memSeed := rfl
@[simp] theorem State.nextDraw_answers (s : State) : s.nextDraw.answers = s.answers.tail := rfl
@[simp] theorem State.nextDraw_draws (s : State) : s.nextDraw.draws = s.draws + 1 := rfl
@[simp] theorem State.reg_nextDraw (s : State) (r : Reg) : s.nextDraw.reg r = s.reg r := rfl
@[simp] theorem State.byteAt_nextDraw (s : State) (a : Nat) : s.nextDraw.byteAt a = s.byteAt a := rfl
@[simp] theorem State.afterHelper_callStack (s : State) (r : HelperReturn) :
    (s.afterHelper r).callStack = s.callStack := rfl
@[simp] theorem State.afterHelper_mem (s : State) (r : HelperReturn) :
    (s.afterHelper r).mem = s.mem.setCells r.writes := rfl
@[simp] theorem State.afterHelper_memMap (s : State) (r : HelperReturn) :
    (s.afterHelper r).memMap = r.memMap.getD s.memMap := rfl
@[simp] theorem State.afterHelper_status (s : State) (r : HelperReturn) :
    (s.afterHelper r).status = s.status := rfl
@[simp] theorem State.afterHelper_program (s : State) (r : HelperReturn) :
    (s.afterHelper r).program = s.program := rfl
@[simp] theorem State.afterHelper_params (s : State) (r : HelperReturn) :
    (s.afterHelper r).params = s.params := rfl
@[simp] theorem State.afterHelper_answers (s : State) (r : HelperReturn) :
    (s.afterHelper r).answers = s.answers := rfl
@[simp] theorem State.afterHelper_draws (s : State) (r : HelperReturn) :
    (s.afterHelper r).draws = s.draws := rfl
@[simp] theorem State.afterHelper_memSeed (s : State) (r : HelperReturn) :
    (s.afterHelper r).memSeed = s.memSeed := rfl

theorem State.reg_enterFunction (s : State) (t : Nat) (r : Reg) :
    (s.enterFunction t).reg r =
      if r ∈ ([0, 6, 7, 8, 9] : List Reg) then .noValue
      else if r = 10 then .value (framePointer s.params (s.callStack.length + 1)) else s.reg r := by
  rw [State.enterFunction, State.reg_clearRegs, State.reg_writeReg]
  rfl

theorem State.reg_leaveFunction (s : State) (f : Frame) (rest : List Frame) (r : Reg) :
    (s.leaveFunction f rest).reg r =
      if r ∈ ([1, 2, 3, 4, 5] : List Reg) then .noValue
      else if r = 10 then f.r10 else if r = 9 then f.r9 else if r = 8 then f.r8
      else if r = 7 then f.r7 else if r = 6 then f.r6 else s.reg r := by
  rw [State.leaveFunction, State.reg_clearRegs, State.reg_setReg, State.reg_setReg,
    State.reg_setReg, State.reg_setReg, State.reg_setReg]
  rfl

theorem State.reg_afterHelper (s : State) (r : HelperReturn) (k : Reg) :
    (s.afterHelper r).reg k =
      if k ∈ ([1, 2, 3, 4, 5] : List Reg) then .noValue
      else if k = 0 then .value r.r0 else s.reg k := by
  rw [State.afterHelper, State.reg_advance, State.reg_clearRegs, State.reg_writeReg]
  rfl

end Sys2Proof.Machine
end

