-- ==== Sys2Proof/Laws/Memory.lean ====
section
/-! SUPPORT. Memory as data: reading after writing, the canonical form, and the bytes of a value. -/

namespace Sys2Proof.Machine

/-! ### One byte -/

@[simp] theorem Memory.get_set_same (m : Memory) (a : Nat) (b : Byte) :
    Memory.get (Memory.set m a b) a = some b := by
  induction m with
  | nil => simp [Memory.set, Memory.get]
  | cons c m ih =>
    obtain ⟨x, d⟩ := c
    unfold Memory.set
    split
    · simp [Memory.get]
    · split
      · simp [Memory.get]
      · rename_i h
        simp [Memory.get, h, ih]

@[simp] theorem Memory.get_set_other (m : Memory) {a y : Nat} (h : y ≠ a) (b : Byte) :
    Memory.get (Memory.set m a b) y = Memory.get m y := by
  induction m with
  | nil => simp [Memory.set, Memory.get, h]
  | cons c m ih =>
    obtain ⟨x, d⟩ := c
    unfold Memory.set
    split
    · simp [Memory.get, h]
    · split
      · rename_i hx
        subst hx
        simp [Memory.get, h]
      · simp [Memory.get, ih]

theorem Memory.get_set (m : Memory) (a y : Nat) (b : Byte) :
    Memory.get (Memory.set m a b) y = if y = a then some b else Memory.get m y := by
  by_cases h : y = a
  · simp [h]
  · simp [h]

/-! ### Runs of bytes -/

/-- A run of bytes changes nothing outside it. -/
theorem Memory.get_setBytes_outside (m : Memory) (a : Nat) (bs : List Byte) (y : Nat)
    (h : y < a ∨ a + bs.length ≤ y) :
    Memory.get (Memory.setBytes m a bs) y = Memory.get m y := by
  induction bs generalizing m a with
  | nil => rfl
  | cons b bs ih =>
    simp only [List.length_cons] at h
    rw [Memory.setBytes, ih _ _ (by omega), Memory.get_set_other _ (by omega)]

/-- A run of bytes puts its `k`-th byte at the `k`-th address. -/
theorem Memory.get_setBytes_inside (m : Memory) (a : Nat) (bs : List Byte) (k : Nat)
    (h : k < bs.length) :
    Memory.get (Memory.setBytes m a bs) (a + k) = some bs[k] := by
  induction bs generalizing m a k with
  | nil => simp at h
  | cons b bs ih =>
    rw [Memory.setBytes]
    cases k with
    | zero => rw [Memory.get_setBytes_outside _ _ _ _ (by omega)]; simp
    | succ k =>
      have hk : k < bs.length := by simpa using h
      have := ih (Memory.set m a b) (a + 1) k hk
      rw [show a + (k + 1) = a + 1 + k by omega, this]
      simp

/-! ### The canonical form -/

theorem Memory.risingFrom_mono {lo lo' : Nat} (m : Memory) (h : lo ≤ lo')
    (hm : Memory.risingFrom lo' m = true) : Memory.risingFrom lo m = true := by
  cases m with
  | nil => rfl
  | cons c m =>
    obtain ⟨x, d⟩ := c
    simp only [Memory.risingFrom, Bool.and_eq_true, decide_eq_true_eq] at hm ⊢
    exact ⟨⟨by omega, hm.1.2⟩, hm.2⟩

/-- Writing one byte keeps the canonical form. -/
theorem Memory.risingFrom_set (m : Memory) {lo a : Nat} (b : Byte) (hlo : lo ≤ a)
    (ha : a < 2 ^ 64) (hm : Memory.risingFrom lo m = true) :
    Memory.risingFrom lo (Memory.set m a b) = true := by
  induction m generalizing lo with
  | nil => simp [Memory.set, Memory.risingFrom, hlo]; omega
  | cons c m ih =>
    obtain ⟨x, d⟩ := c
    simp only [Memory.risingFrom, Bool.and_eq_true, decide_eq_true_eq] at hm
    obtain ⟨⟨h1, h2⟩, h3⟩ := hm
    unfold Memory.set
    split
    · rename_i hax
      simp only [Memory.risingFrom, Bool.and_eq_true, decide_eq_true_eq]
      exact ⟨⟨hlo, ha⟩, ⟨by omega, h2⟩, h3⟩
    · split
      · rename_i hax
        subst hax
        simp only [Memory.risingFrom, Bool.and_eq_true, decide_eq_true_eq]
        exact ⟨⟨h1, h2⟩, h3⟩
      · simp only [Memory.risingFrom, Bool.and_eq_true, decide_eq_true_eq]
        exact ⟨⟨h1, h2⟩, ih (by omega) h3⟩

theorem Memory.wf_set (m : Memory) {a : Nat} (b : Byte) (ha : a < 2 ^ 64) (hm : m.wf = true) :
    (Memory.set m a b).wf = true :=
  Memory.risingFrom_set m b (Nat.zero_le a) ha hm

/-- Writing a run of bytes inside the address space keeps the canonical form. -/
theorem Memory.wf_setBytes (m : Memory) (a : Nat) (bs : List Byte) (ha : a + bs.length ≤ 2 ^ 64)
    (hm : m.wf = true) : (Memory.setBytes m a bs).wf = true := by
  induction bs generalizing m a with
  | nil => exact hm
  | cons b bs ih =>
    simp only [List.length_cons] at ha
    exact ih _ _ (by omega) (Memory.wf_set m b (by omega) hm)

/-- The bytes a helper writes keep the canonical form. -/
theorem Memory.wf_setCells (m : Memory) (ws : List (Word × Byte)) (hm : m.wf = true) :
    (Memory.setCells m ws).wf = true := by
  induction ws generalizing m with
  | nil => exact hm
  | cons w ws ih => exact ih _ (Memory.wf_set m w.2 w.1.isLt hm)

/-- A helper changes no byte it does not write. -/
theorem Memory.get_setCells_other (m : Memory) (ws : List (Word × Byte)) (y : Nat)
    (h : ∀ w ∈ ws, w.1.toNat ≠ y) : Memory.get (Memory.setCells m ws) y = Memory.get m y := by
  induction ws generalizing m with
  | nil => rfl
  | cons w ws ih =>
    rw [Memory.setCells, ih _ fun v hv => h v (List.mem_cons_of_mem _ hv),
      Memory.get_set_other _ (Ne.symm (h w List.mem_cons_self))]

theorem Memory.wf_empty : Memory.empty.wf = true := rfl

/-! ### Bytes of a number -/

@[simp] theorem leBytes_length (n x : Nat) : (leBytes n x).length = n := by
  induction n generalizing x with
  | zero => rfl
  | succ n ih => simp [leBytes, ih]

@[simp] theorem unspell_length (e : Endian) (n x : Nat) : (unspell e n x).length = n := by
  cases e <;> simp [unspell]

/-- The bytes of a number spell it, modulo what the bytes can hold. -/
theorem leValue_leBytes (n x : Nat) : leValue (leBytes n x) = x % 256 ^ n := by
  induction n generalizing x with
  | zero => simp [leBytes, leValue, Nat.mod_one]
  | succ n ih =>
    rw [leBytes, leValue, ih, BitVec.toNat_ofNat,
      show (256 : Nat) ^ (n + 1) = 256 * 256 ^ n from Nat.pow_succ', Nat.mod_mul]

/-- Spelling undoes unspelling, in either byte order. -/
theorem spell_unspell (e : Endian) (n x : Nat) : spell e (unspell e n x) = x % 256 ^ n := by
  cases e <;> simp [spell, unspell, leValue_leBytes]

/-- The `k`-th low byte of a number. -/
theorem leBytes_getElem (n x k : Nat) (h : k < (leBytes n x).length) :
    (leBytes n x)[k] = BitVec.ofNat 8 (x / 256 ^ k) := by
  induction n generalizing x k with
  | zero => simp at h
  | succ n ih =>
    cases k with
    | zero => simp [leBytes]
    | succ k =>
      have hk : k < n := by simpa using h
      simp only [leBytes, List.getElem_cons_succ]
      rw [ih _ _ (by simpa using hk), Nat.div_div_eq_div_mul, Nat.pow_succ, Nat.mul_comm 256]

theorem leValue_lt (bs : List Byte) : leValue bs < 256 ^ bs.length := by
  induction bs with
  | nil => simp [leValue]
  | cons b bs ih =>
    have := b.isLt
    simp only [leValue, List.length_cons, Nat.pow_succ]
    omega

/-- The bytes of the number that bytes spell are those bytes. -/
theorem leBytes_leValue (bs : List Byte) : leBytes bs.length (leValue bs) = bs := by
  induction bs with
  | nil => rfl
  | cons b bs ih =>
    have hb := b.isLt
    simp only [List.length_cons, leBytes, leValue]
    rw [show (b.toNat + 256 * leValue bs) / 256 = leValue bs by omega, ih]
    congr 1
    apply BitVec.eq_of_toNat_eq
    rw [BitVec.toNat_ofNat]
    omega

/-! ### Loading and storing -/

@[simp] theorem State.bytesAt_length (s : State) (a n : Nat) : (s.bytesAt a n).length = n := by
  induction n generalizing a with
  | zero => rfl
  | succ n ih => simp [State.bytesAt, ih]

theorem State.bytesAt_getElem (s : State) (a n k : Nat) (h : k < (s.bytesAt a n).length) :
    (s.bytesAt a n)[k] = s.byteAt (a + k) := by
  induction n generalizing a k with
  | zero => simp at h
  | succ n ih =>
    cases k with
    | zero => rfl
    | succ k =>
      have hk : k < n := by simpa using h
      simp only [State.bytesAt, List.getElem_cons_succ]
      rw [ih _ _ (by simpa using hk)]
      congr 1
      omega

/-- Storing a value changes no byte outside it. -/
theorem State.get_storeValue_outside (s : State) (a : Nat) {w : Nat} (v : BitVec w) (y : Nat)
    (h : y < a ∨ a + w / 8 ≤ y) : (s.storeValue a v).mem.get y = s.mem.get y := by
  rw [State.storeValue_mem]
  exact Memory.get_setBytes_outside _ _ _ _ (by simpa using h)

/-- Storing a value changes no byte read outside it. -/
theorem State.byteAt_storeValue_outside (s : State) (a : Nat) {w : Nat} (v : BitVec w) (y : Nat)
    (h : y < a ∨ a + w / 8 ≤ y) : (s.storeValue a v).byteAt y = s.byteAt y := by
  rw [State.byteAt, State.get_storeValue_outside s a v y h]
  rfl

/-- Storing a value puts its `k`-th byte, in the host's order, at the `k`-th address. -/
theorem State.byteAt_storeValue_inside (s : State) (a : Nat) {w : Nat} (v : BitVec w) (k : Nat)
    (h : k < w / 8) :
    (s.storeValue a v).byteAt (a + k) =
      (unspell s.params.hostEndian (w / 8) v.toNat)[k]'(by simpa using h) := by
  rw [State.byteAt, State.storeValue_mem, Memory.get_setBytes_inside _ _ _ _ (by simpa using h)]

/-- The bytes stored are the bytes read back. -/
theorem State.bytesAt_storeValue (s : State) (a : Nat) {w : Nat} (v : BitVec w) :
    (s.storeValue a v).bytesAt a (w / 8) = unspell s.params.hostEndian (w / 8) v.toNat := by
  apply List.ext_getElem (by simp)
  intro k h1 h2
  rw [State.bytesAt_getElem, State.byteAt_storeValue_inside s a v k (by simpa using h1)]

/-- A value stored is the value loaded back, when its width is a whole number of bytes. -/
theorem State.loadValue_storeValue (s : State) (a : Nat) {w : Nat} (v : BitVec w)
    (hw : w / 8 * 8 = w) : (s.storeValue a v).loadValue a w = v := by
  rw [State.loadValue, State.bytesAt_storeValue]
  show BitVec.ofNat w (spell s.params.hostEndian (unspell s.params.hostEndian (w / 8) v.toNat)) = v
  have h256 : (256 : Nat) ^ (w / 8) = 2 ^ w := by
    rw [show (256 : Nat) = 2 ^ 8 by norm_num, ← Nat.pow_mul, Nat.mul_comm, hw]
  rw [spell_unspell, h256, Nat.mod_eq_of_lt v.isLt, BitVec.ofNat_toNat, BitVec.setWidth_eq]

/-- Storing a value keeps the canonical form of memory, inside the address space. -/
theorem State.storeValue_wf (s : State) (a : Nat) {w : Nat} (v : BitVec w)
    (ha : a + w / 8 ≤ 2 ^ 64) (h : s.mem.wf = true) : (s.storeValue a v).mem.wf = true := by
  rw [State.storeValue_mem]
  exact Memory.wf_setBytes _ _ _ (by simpa using ha) h

/-- Reading a value depends only on the bytes it covers. -/
theorem State.bytesAt_congr {s t : State} {a n : Nat}
    (h : ∀ k, k < n → t.byteAt (a + k) = s.byteAt (a + k)) : t.bytesAt a n = s.bytesAt a n := by
  apply List.ext_getElem (by simp)
  intro k h1 h2
  rw [State.bytesAt_getElem, State.bytesAt_getElem]
  exact h k (by simpa using h1)

/-- The value read is the same where the bytes are and the byte order is. -/
theorem State.loadValue_congr {s t : State} {a w : Nat}
    (he : t.params.hostEndian = s.params.hostEndian)
    (h : ∀ k, k < w / 8 → t.byteAt (a + k) = s.byteAt (a + k)) :
    t.loadValue a w = s.loadValue a w := by
  rw [State.loadValue, State.loadValue, State.bytesAt_congr h, he]

@[simp] theorem State.loadValue_advance (s : State) (n a w : Nat) :
    (s.advance n).loadValue a w = s.loadValue a w :=
  State.loadValue_congr rfl fun _ _ => rfl

@[simp] theorem State.loadValue_writeReg (s : State) (r : Reg) (v : Word) (a w : Nat) :
    (s.writeReg r v).loadValue a w = s.loadValue a w :=
  State.loadValue_congr rfl fun _ _ => rfl

end Sys2Proof.Machine
end

