-- ==== Sys2Proof/Laws/Ops.lean ====
section
/-! SUPPORT. For each shared operation, everything it can do, said once: when it answers a next state
and which one, and which faults it raises. Later proofs cite these and unfold no operation. -/

namespace Sys2Proof.Machine

/-! ### Checks and reads -/

theorem next_eq {t u : State} : ((.next u : Result) = .next t) ↔ t = u := by
  constructor
  · intro h; cases h; rfl
  · rintro rfl; rfl

theorem orFault_ok {α : Type} (a : α) (k : α → Result) : orFault (.ok a) k = k a := rfl

theorem orFault_error {α : Type} (f : Fault) (k : α → Result) : orFault (.error f) k = .fault f := rfl

theorem orFault_next {α : Type} {r : Except Fault α} {k : α → Result} {t : State} :
    orFault r k = .next t ↔ ∃ a, r = .ok a ∧ k a = .next t := by
  cases r <;> simp [orFault, raise]

theorem orFault_fault {α : Type} {r : Except Fault α} {k : α → Result} {f : Fault} :
    orFault r k = .fault f ↔ r = .error f ∨ ∃ a, r = .ok a ∧ k a = .fault f := by
  cases r <;> simp [orFault, raise]

theorem orFault_refused {α : Type} {r : Except Fault α} {k : α → Result} {q : Refusal} :
    orFault r k = .refused q ↔ ∃ a, r = .ok a ∧ k a = .refused q := by
  cases r <;> simp [orFault, raise]

theorem readReg_ok {s : State} {r : Reg} {v : Word} : readReg s r = .ok v ↔ s.reg r = .value v := by
  unfold readReg
  cases s.reg r <;> simp

theorem readReg_error {s : State} {r : Reg} {f : Fault} :
    readReg s r = .error f ↔ s.reg r = .noValue ∧ f = .uninitRegister s.pc r := by
  unfold readReg
  cases s.reg r <;> simp [eq_comm]

theorem readReg32_ok {s : State} {r : Reg} {v : Word32} :
    readReg32 s r = .ok v ↔ ∃ x, s.reg r = .value x ∧ x.setWidth 32 = v := by
  unfold readReg32
  cases s.reg r <;> simp

theorem readReg32_error {s : State} {r : Reg} {f : Fault} :
    readReg32 s r = .error f ↔ s.reg r = .noValue ∧ f = .uninitRegister s.pc r := by
  unfold readReg32
  cases s.reg r <;> simp [eq_comm]

theorem readReg_of_value {s : State} {r : Reg} {v : Word} (h : s.reg r = .value v) :
    readReg s r = .ok v := readReg_ok.2 h

theorem readReg_of_noValue {s : State} {r : Reg} (h : s.reg r = .noValue) :
    readReg s r = .error (.uninitRegister s.pc r) := readReg_error.2 ⟨h, rfl⟩

theorem readReg32_of_value {s : State} {r : Reg} {v : Word} (h : s.reg r = .value v) :
    readReg32 s r = .ok (v.setWidth 32) := readReg32_ok.2 ⟨v, h, rfl⟩

theorem readReg32_of_noValue {s : State} {r : Reg} (h : s.reg r = .noValue) :
    readReg32 s r = .error (.uninitRegister s.pc r) := readReg32_error.2 ⟨h, rfl⟩

/-- The only fault of a source operand: a register that holds no value. -/
theorem source64_error {s : State} {src : Src} {f : Fault} :
    source64 s src = .error f ↔
      ∃ r, src = .reg r ∧ s.reg r = .noValue ∧ f = .uninitRegister s.pc r := by
  cases src <;> simp [source64, readReg_error]

/-- The only fault of a source operand: a register that holds no value. -/
theorem source32_error {s : State} {src : Src} {f : Fault} :
    source32 s src = .error f ↔
      ∃ r, src = .reg r ∧ s.reg r = .noValue ∧ f = .uninitRegister s.pc r := by
  cases src <;> simp [source32, readReg32_error]

/-! ### Arithmetic -/

theorem alu64_next {f : Word → Word → Word} {dst : Reg} {src : Src} {s t : State} :
    alu64 f dst src s = .next t ↔
      ∃ a b, s.reg dst = .value a ∧ source64 s src = .ok b ∧
        t = (s.writeReg dst (f a b)).advance 1 := by
  simp [alu64, orFault_next, readReg_ok, next_eq, -Host.Outcome.next.injEq]

theorem alu64_fault {f : Word → Word → Word} {dst : Reg} {src : Src} {s : State} {e : Fault} :
    alu64 f dst src s = .fault e ↔
      readReg s dst = .error e ∨ ∃ a, s.reg dst = .value a ∧ source64 s src = .error e := by
  simp [alu64, orFault_fault, readReg_ok]

theorem alu32_next {f : Word32 → Word32 → Word32} {dst : Reg} {src : Src} {s t : State} :
    alu32 f dst src s = .next t ↔
      ∃ a b, readReg32 s dst = .ok a ∧ source32 s src = .ok b ∧
        t = (s.writeReg32 dst (f a b)).advance 1 := by
  simp [alu32, orFault_next, next_eq, -Host.Outcome.next.injEq]

theorem alu32_fault {f : Word32 → Word32 → Word32} {dst : Reg} {src : Src} {s : State} {e : Fault} :
    alu32 f dst src s = .fault e ↔
      readReg32 s dst = .error e ∨ ∃ a, readReg32 s dst = .ok a ∧ source32 s src = .error e := by
  simp [alu32, orFault_fault]

theorem aluUnary_next {f : Word → Word} {dst : Reg} {s t : State} :
    aluUnary f dst s = .next t ↔
      ∃ a, s.reg dst = .value a ∧ t = (s.writeReg dst (f a)).advance 1 := by
  simp [aluUnary, orFault_next, readReg_ok, next_eq, -Host.Outcome.next.injEq]

theorem aluUnary_fault {f : Word → Word} {dst : Reg} {s : State} {e : Fault} :
    aluUnary f dst s = .fault e ↔ readReg s dst = .error e := by
  simp [aluUnary, orFault_fault]

theorem moveExtended_next {f : Word → Word} {dst src : Reg} {s t : State} :
    moveExtended f dst src s = .next t ↔
      ∃ v, s.reg src = .value v ∧ t = (s.writeReg dst (f v)).advance 1 := by
  simp [moveExtended, orFault_next, readReg_ok, next_eq, -Host.Outcome.next.injEq]

theorem moveExtended_fault {f : Word → Word} {dst src : Reg} {s : State} {e : Fault} :
    moveExtended f dst src s = .fault e ↔ readReg s src = .error e := by
  simp [moveExtended, orFault_fault]

/-! ### Control transfers -/

theorem jumpTarget_ok {s : State} {t : Int} {k : Nat} :
    jumpTarget s t = .ok k ↔ t = k ∧ k < s.program.length ∧ secondSlot s.program k = false := by
  unfold jumpTarget
  split
  · rename_i h
    constructor
    · intro h'; cases h'
    · rintro ⟨rfl, h1, -⟩; omega
  · rename_i h
    split
    · rename_i h2
      constructor
      · intro h'; cases h'
      · rintro ⟨rfl, -, h3⟩; simp [h3] at h2
    · rename_i h2
      constructor
      · intro h'
        cases h'
        exact ⟨by omega, by omega, by simpa using h2⟩
      · rintro ⟨rfl, -, -⟩; simp

theorem jumpTarget_error {s : State} {t : Int} {f : Fault} :
    jumpTarget s t = .error f ↔
      ((t < 0 ∨ (s.program.length : Int) ≤ t) ∧ f = .pcOutOfRange s.pc t) ∨
      ∃ k : Nat, t = k ∧ k < s.program.length ∧ secondSlot s.program k = true ∧
        f = .jumpIntoWide s.pc k := by
  unfold jumpTarget
  split
  · rename_i h
    constructor
    · intro h'; cases h'; exact .inl ⟨h, rfl⟩
    · rintro (⟨-, rfl⟩ | ⟨k, rfl, hk, -⟩)
      · rfl
      · omega
  · rename_i h
    split
    · rename_i h2
      constructor
      · intro h'; cases h'; exact .inr ⟨t.toNat, by omega, by omega, h2, rfl⟩
      · rintro (⟨h', -⟩ | ⟨k, rfl, -, -, rfl⟩)
        · exact absurd h' h
        · simp
    · rename_i h2
      constructor
      · intro h'; cases h'
      · rintro (⟨h', -⟩ | ⟨k, rfl, -, h3, -⟩)
        · exact absurd h' h
        · simp [h3] at h2

theorem jumpBy_next {s t : State} {delta : Int} :
    jumpBy s delta = .next t ↔
      ∃ k : Nat, (s.pc : Int) + 1 + delta = k ∧ k < s.program.length ∧
        secondSlot s.program k = false ∧ t = { s with pc := k } := by
  simp [jumpBy, orFault_next, jumpTarget_ok, relativeTarget, and_assoc, next_eq, -Host.Outcome.next.injEq]

theorem jumpBy_fault {s : State} {delta : Int} {f : Fault} :
    jumpBy s delta = .fault f ↔ jumpTarget s (relativeTarget s delta) = .error f := by
  simp [jumpBy, orFault_fault]

theorem jump64_next {c : Word → Word → Bool} {dst : Reg} {src : Src} {off : BitVec 16} {s t : State} :
    jump64 c dst src off s = .next t ↔
      ∃ a b, s.reg dst = .value a ∧ source64 s src = .ok b ∧
        if c a b then jumpBy s off.toInt = .next t else t = s.advance 1 := by
  simp only [jump64, orFault_next, readReg_ok]
  constructor
  · rintro ⟨a, ha, b, hb, h⟩
    refine ⟨a, b, ha, hb, ?_⟩
    split <;> simp_all
  · rintro ⟨a, b, ha, hb, h⟩
    refine ⟨a, ha, b, hb, ?_⟩
    split <;> simp_all

theorem jump64_fault {c : Word → Word → Bool} {dst : Reg} {src : Src} {off : BitVec 16} {s : State}
    {f : Fault} :
    jump64 c dst src off s = .fault f ↔
      readReg s dst = .error f ∨ (∃ a, s.reg dst = .value a ∧ source64 s src = .error f) ∨
      ∃ a b, s.reg dst = .value a ∧ source64 s src = .ok b ∧ c a b = true ∧
        jumpBy s off.toInt = .fault f := by
  simp only [jump64, orFault_fault, readReg_ok]
  constructor
  · rintro (h | ⟨a, ha, h | ⟨b, hb, h⟩⟩)
    · exact .inl h
    · exact .inr (.inl ⟨a, ha, h⟩)
    · split at h
      · exact .inr (.inr ⟨a, b, ha, hb, ‹_›, h⟩)
      · cases h
  · rintro (h | ⟨a, ha, h⟩ | ⟨a, b, ha, hb, hc, h⟩)
    · exact .inl h
    · exact .inr ⟨a, ha, .inl h⟩
    · exact .inr ⟨a, ha, .inr ⟨b, hb, by simpa [hc] using h⟩⟩

theorem jump32_next {c : Word32 → Word32 → Bool} {dst : Reg} {src : Src} {off : BitVec 16}
    {s t : State} :
    jump32 c dst src off s = .next t ↔
      ∃ a b, readReg32 s dst = .ok a ∧ source32 s src = .ok b ∧
        if c a b then jumpBy s off.toInt = .next t else t = s.advance 1 := by
  simp only [jump32, orFault_next]
  constructor
  · rintro ⟨a, ha, b, hb, h⟩
    refine ⟨a, b, ha, hb, ?_⟩
    split <;> simp_all
  · rintro ⟨a, b, ha, hb, h⟩
    refine ⟨a, ha, b, hb, ?_⟩
    split <;> simp_all

theorem jump32_fault {c : Word32 → Word32 → Bool} {dst : Reg} {src : Src} {off : BitVec 16}
    {s : State} {f : Fault} :
    jump32 c dst src off s = .fault f ↔
      readReg32 s dst = .error f ∨ (∃ a, readReg32 s dst = .ok a ∧ source32 s src = .error f) ∨
      ∃ a b, readReg32 s dst = .ok a ∧ source32 s src = .ok b ∧ c a b = true ∧
        jumpBy s off.toInt = .fault f := by
  simp only [jump32, orFault_fault]
  constructor
  · rintro (h | ⟨a, ha, h | ⟨b, hb, h⟩⟩)
    · exact .inl h
    · exact .inr (.inl ⟨a, ha, h⟩)
    · split at h
      · exact .inr (.inr ⟨a, b, ha, hb, ‹_›, h⟩)
      · cases h
  · rintro (h | ⟨a, ha, h⟩ | ⟨a, b, ha, hb, hc, h⟩)
    · exact .inl h
    · exact .inr ⟨a, ha, .inl h⟩
    · exact .inr ⟨a, ha, .inr ⟨b, hb, by simpa [hc] using h⟩⟩

/-! ### Memory -/

/-- A byte reads the same where memory and its start contents are the same. -/
theorem State.byteAt_congr {s t : State} (hm : t.mem = s.mem) (hs : t.memSeed = s.memSeed) (x : Nat) :
    t.byteAt x = s.byteAt x := by
  simp only [State.byteAt, hm, hs]

theorem covered_iff {rs : List AddrRange} {a n : Nat} :
    covered rs a n = true ↔
      ∀ k, k < n → ∃ r ∈ rs, r.base ≤ a + k ∧ a + k < r.base + r.size := by
  simp [covered, AddrRange.holds]

theorem memRead_ok {s : State} {addr : Word} {w : Nat} {v : BitVec w} :
    memRead s addr w = .ok v ↔
      addr.toNat + w / 8 ≤ 2 ^ 64 ∧ (s.params.alignPolicy = .strict → addr.toNat % (w / 8) = 0) ∧
      covered s.memMap.readable addr.toNat (w / 8) = true ∧ v = s.loadValue addr.toNat w := by
  unfold memRead
  split
  · exact ⟨(fun h => nomatch h), fun h => by omega⟩
  · split
    · rename_i h
      exact ⟨(fun h => nomatch h), fun h' => absurd (h'.2.1 h.1) h.2⟩
    · rename_i h1 h2
      split
      · rename_i h3
        exact ⟨(fun h => nomatch h), fun h' => by simp [h3] at h'⟩
      · rename_i h3
        constructor
        · intro h
          cases h
          refine ⟨by omega, fun hp => ?_, by simpa using h3, rfl⟩
          by_contra hn
          exact h2 ⟨hp, hn⟩
        · rintro ⟨-, -, -, rfl⟩; rfl

theorem memRead_error {s : State} {addr : Word} {w : Nat} {f : Fault} :
    memRead s addr w = .error f →
      f = .memAccess s.pc addr (w / 8) .read ∨ f = .misaligned s.pc addr (w / 8) := by
  unfold memRead
  split
  · intro h; cases h; exact .inl rfl
  · split
    · intro h; cases h; exact .inr rfl
    · split
      · intro h; cases h; exact .inl rfl
      · intro h; cases h

theorem memWrite_ok {s t : State} {addr : Word} {w : Nat} {v : BitVec w} :
    memWrite s addr v = .ok t ↔
      addr.toNat + w / 8 ≤ 2 ^ 64 ∧ (s.params.alignPolicy = .strict → addr.toNat % (w / 8) = 0) ∧
      covered s.memMap.writable addr.toNat (w / 8) = true ∧ t = s.storeValue addr.toNat v := by
  unfold memWrite
  split
  · exact ⟨(fun h => nomatch h), fun h => by omega⟩
  · split
    · rename_i h
      exact ⟨(fun h => nomatch h), fun h' => absurd (h'.2.1 h.1) h.2⟩
    · rename_i h1 h2
      split
      · rename_i h3
        exact ⟨(fun h => nomatch h), fun h' => by simp [h3] at h'⟩
      · rename_i h3
        constructor
        · intro h
          cases h
          refine ⟨by omega, fun hp => ?_, by simpa using h3, rfl⟩
          by_contra hn
          exact h2 ⟨hp, hn⟩
        · rintro ⟨-, -, -, rfl⟩; rfl

theorem memWrite_error {s : State} {addr : Word} {w : Nat} {v : BitVec w} {f : Fault} :
    memWrite s addr v = .error f →
      f = .memAccess s.pc addr (w / 8) .write ∨ f = .misaligned s.pc addr (w / 8) := by
  unfold memWrite
  split
  · intro h; cases h; exact .inl rfl
  · split
    · intro h; cases h; exact .inr rfl
    · split
      · intro h; cases h; exact .inl rfl
      · intro h; cases h

theorem atomicCheck_ok {s : State} {addr : Word} {n : Nat} {u : Unit} :
    atomicCheck s addr n = .ok u ↔
      addr.toNat % n = 0 ∧ addr.toNat + n ≤ 2 ^ 64 ∧
      covered s.memMap.readable addr.toNat n = true ∧
      covered s.memMap.writable addr.toNat n = true := by
  unfold atomicCheck
  split
  · rename_i h
    exact ⟨(fun h => nomatch h), fun h' => absurd h'.1 h⟩
  · rename_i h1
    split
    · rename_i h2
      refine ⟨(fun h => nomatch h), fun h' => ?_⟩
      rcases h2 with h2 | h2
      · omega
      · simp [h2] at h'
    · rename_i h2
      split
      · rename_i h3
        exact ⟨(fun h => nomatch h), fun h' => by simp [h3] at h'⟩
      · rename_i h3
        refine ⟨fun _ => ⟨by omega, by omega, ?_, by simpa using h3⟩, fun _ => rfl⟩
        by_contra hc
        exact h2 (.inr (by simpa using hc))

theorem atomicCheck_error {s : State} {addr : Word} {n : Nat} {f : Fault} :
    atomicCheck s addr n = .error f →
      f = .misaligned s.pc addr n ∨ ∃ k, f = .memAccess s.pc addr n k := by
  unfold atomicCheck
  split
  · intro h; cases h; exact .inl rfl
  · split
    · intro h; cases h; exact .inr ⟨_, rfl⟩
    · split
      · intro h; cases h; exact .inr ⟨_, rfl⟩
      · intro h; cases h

theorem load_next {w : Nat} {ext : BitVec w → Word} {dst base : Reg} {off : BitVec 16}
    {s t : State} :
    load w ext dst base off s = .next t ↔
      ∃ b v, s.reg base = .value b ∧ memRead s (effectiveAddress b off) w = .ok v ∧
        t = (s.writeReg dst (ext v)).advance 1 := by
  simp [load, orFault_next, readReg_ok, next_eq, -Host.Outcome.next.injEq]

theorem load_fault {w : Nat} {ext : BitVec w → Word} {dst base : Reg} {off : BitVec 16}
    {s : State} {f : Fault} :
    load w ext dst base off s = .fault f ↔
      readReg s base = .error f ∨
      ∃ b, s.reg base = .value b ∧ memRead s (effectiveAddress b off) w = .error f := by
  simp [load, orFault_fault, readReg_ok]

theorem store_next {w : Nat} {b : Word} {off : BitVec 16} {v : BitVec w} {s t : State} :
    store b off v s = .next t ↔
      ∃ u, memWrite s (effectiveAddress b off) v = .ok u ∧ t = u.advance 1 := by
  simp [store, orFault_next, next_eq, -Host.Outcome.next.injEq]

theorem store_fault {w : Nat} {b : Word} {off : BitVec 16} {v : BitVec w} {s : State} {f : Fault} :
    store b off v s = .fault f ↔ memWrite s (effectiveAddress b off) v = .error f := by
  simp [store, orFault_fault]

theorem storeImm_next {w : Nat} {base : Reg} {off : BitVec 16} {imm : BitVec 32} {s t : State} :
    storeImm w base off imm s = .next t ↔
      ∃ b, s.reg base = .value b ∧ store b off ((imm.signExtend 64).setWidth w) s = .next t := by
  simp [storeImm, orFault_next, readReg_ok]

theorem storeImm_fault {w : Nat} {base : Reg} {off : BitVec 16} {imm : BitVec 32} {s : State}
    {f : Fault} :
    storeImm w base off imm s = .fault f ↔
      readReg s base = .error f ∨
      ∃ b, s.reg base = .value b ∧ store b off ((imm.signExtend 64).setWidth w) s = .fault f := by
  simp [storeImm, orFault_fault, readReg_ok]

theorem storeReg_next {w : Nat} {base src : Reg} {off : BitVec 16} {s t : State} :
    storeReg w base off src s = .next t ↔
      ∃ b v, s.reg base = .value b ∧ s.reg src = .value v ∧
        store b off (v.setWidth w) s = .next t := by
  simp [storeReg, orFault_next, readReg_ok]

theorem storeReg_fault {w : Nat} {base src : Reg} {off : BitVec 16} {s : State} {f : Fault} :
    storeReg w base off src s = .fault f ↔
      readReg s base = .error f ∨
      ∃ b, s.reg base = .value b ∧ (readReg s src = .error f ∨
        ∃ v, s.reg src = .value v ∧ store b off (v.setWidth w) s = .fault f) := by
  simp [storeReg, orFault_fault, readReg_ok]

theorem atomicUpdate_next {w : Nat} {f : BitVec w → BitVec w → BitVec w}
    {finish : BitVec w → State → State} {base src : Reg} {off : BitVec 16} {s t : State} :
    atomicUpdate w f finish base off src s = .next t ↔
      ∃ b v, s.reg base = .value b ∧ s.reg src = .value v ∧
        atomicCheck s (effectiveAddress b off) (w / 8) = .ok () ∧
        t = (finish (s.loadValue (effectiveAddress b off).toNat w)
          (s.storeValue (effectiveAddress b off).toNat
            (f (s.loadValue (effectiveAddress b off).toNat w) (v.setWidth w)))).advance 1 := by
  simp [atomicUpdate, orFault_next, readReg_ok, Unique.exists_iff, next_eq, -Host.Outcome.next.injEq]

theorem atomicPlain_next {w : Nat} {f : BitVec w → BitVec w → BitVec w} {base src : Reg}
    {off : BitVec 16} {s t : State} :
    atomicPlain w f base off src s = .next t ↔
      ∃ b v, s.reg base = .value b ∧ s.reg src = .value v ∧
        atomicCheck s (effectiveAddress b off) (w / 8) = .ok () ∧
        t = (s.storeValue (effectiveAddress b off).toNat
          (f (s.loadValue (effectiveAddress b off).toNat w) (v.setWidth w))).advance 1 :=
  atomicUpdate_next

theorem atomicFetch_next {w : Nat} {f : BitVec w → BitVec w → BitVec w} {base src : Reg}
    {off : BitVec 16} {s t : State} :
    atomicFetch w f base off src s = .next t ↔
      ∃ b v, s.reg base = .value b ∧ s.reg src = .value v ∧
        atomicCheck s (effectiveAddress b off) (w / 8) = .ok () ∧
        t = ((s.storeValue (effectiveAddress b off).toNat
          (f (s.loadValue (effectiveAddress b off).toNat w) (v.setWidth w))).writeReg src
            ((s.loadValue (effectiveAddress b off).toNat w).setWidth 64)).advance 1 :=
  atomicUpdate_next

theorem atomicUpdate_fault {w : Nat} {f : BitVec w → BitVec w → BitVec w}
    {finish : BitVec w → State → State} {base src : Reg} {off : BitVec 16} {s : State} {e : Fault} :
    atomicUpdate w f finish base off src s = .fault e ↔
      readReg s base = .error e ∨
      ∃ b, s.reg base = .value b ∧ (readReg s src = .error e ∨
        ∃ v, s.reg src = .value v ∧
          atomicCheck s (effectiveAddress b off) (w / 8) = .error e) := by
  simp [atomicUpdate, orFault_fault, readReg_ok]

theorem atomicCompare_next {w : Nat} {base src : Reg} {off : BitVec 16} {s t : State} :
    atomicCompare w base off src s = .next t ↔
      ∃ b v r0, s.reg base = .value b ∧ s.reg src = .value v ∧ s.reg 0 = .value r0 ∧
        atomicCheck s (effectiveAddress b off) (w / 8) = .ok () ∧
        t = ((if s.loadValue (effectiveAddress b off).toNat w = r0.setWidth w then
            s.storeValue (effectiveAddress b off).toNat (v.setWidth w) else s).writeReg 0
          ((s.loadValue (effectiveAddress b off).toNat w).setWidth 64)).advance 1 := by
  simp [atomicCompare, orFault_next, readReg_ok, Unique.exists_iff, next_eq, -Host.Outcome.next.injEq]

theorem atomicCompare_fault {w : Nat} {base src : Reg} {off : BitVec 16} {s : State} {e : Fault} :
    atomicCompare w base off src s = .fault e ↔
      readReg s base = .error e ∨
      ∃ b, s.reg base = .value b ∧ (readReg s src = .error e ∨
        ∃ v, s.reg src = .value v ∧ (readReg s 0 = .error e ∨
          ∃ r0, s.reg 0 = .value r0 ∧
            atomicCheck s (effectiveAddress b off) (w / 8) = .error e)) := by
  simp [atomicCompare, orFault_fault, readReg_ok]

/-! ### Calls -/

theorem missingArg_none {s : State} {needs : List (Fin 5)} :
    missingArg s needs = none ↔ ∀ k ∈ needs, ∃ v, s.reg (argReg k) = .value v := by
  induction needs with
  | nil => simp [missingArg]
  | cons k ks ih =>
    simp only [missingArg]
    cases h : s.reg (argReg k) <;> simp [h, ih]

/-- The first needed argument that holds no value is the one reported. -/
theorem missingArg_first {s : State} {before after : List (Fin 5)} {k : Fin 5}
    (hb : ∀ j ∈ before, ∃ v, s.reg (argReg j) = .value v) (hk : s.reg (argReg k) = .noValue) :
    missingArg s (before ++ k :: after) = some (argReg k) := by
  induction before with
  | nil => simp [missingArg, hk]
  | cons j js ih =>
    obtain ⟨v, hv⟩ := hb j List.mem_cons_self
    simp only [List.cons_append, missingArg, hv]
    exact ih fun i hi => hb i (List.mem_cons_of_mem _ hi)

/-- A helper call that goes on: every needed argument is there, and the outcome picked is a `Return`. -/
theorem runHelper_next {h : HelperEntry} {s t : State} :
    runHelper h s = .next t ↔ missingArg s h.needs = none ∧ ∃ r,
      helperOutcome h.helper (helperCall s) (helperPick s) = .returns r ∧
        t = s.nextDraw.afterHelper r := by
  unfold runHelper
  cases missingArg s h.needs with
  | some r => simp [raise]
  | none =>
    cases helperOutcome h.helper (helperCall s) (helperPick s) <;>
      simp [raise, next_eq, -Host.Outcome.next.injEq]

theorem runHelper_fault {h : HelperEntry} {s : State} {f : Fault} :
    runHelper h s = .fault f ↔
      (∃ r, missingArg s h.needs = some r ∧ f = .uninitRegister s.pc r) ∨
      (missingArg s h.needs = none ∧ ∃ e,
        helperOutcome h.helper (helperCall s) (helperPick s) = .faults e ∧
          f = faultOfHelper s.pc e) := by
  unfold runHelper
  cases missingArg s h.needs with
  | some r => simp [raise, eq_comm]
  | none =>
    cases helperOutcome h.helper (helperCall s) (helperPick s) <;> simp [raise, eq_comm]

theorem runHelper_refused {h : HelperEntry} {s : State} {q : Refusal} :
    runHelper h s = .refused q ↔ missingArg s h.needs = none ∧ q = .helperDoesNotReturn ∧
      helperOutcome h.helper (helperCall s) (helperPick s) = .leaves := by
  unfold runHelper
  cases missingArg s h.needs with
  | some r => simp [raise]
  | none =>
    cases helperOutcome h.helper (helperCall s) (helperPick s) <;> simp [raise, eq_comm]

/-- The outcomes of a written-out set are the ones it lists. -/
theorem pickOutcome_iff {o : HelperOutcomes} {x : HelperOutcome} :
    (∃ k, pickOutcome o k = x) ↔ x ∈ o.first :: o.others := by
  constructor
  · rintro ⟨k, rfl⟩
    exact List.getElem_mem _
  · intro hx
    obtain ⟨k, hk, rfl⟩ := List.mem_iff_getElem.1 hx
    refine ⟨k, ?_⟩
    have : k % (o.others.length + 1) = k := Nat.mod_eq_of_lt (by simpa using hk)
    simp only [pickOutcome, this]

/-- The next of the queue is the platform's choice. -/
@[simp] theorem helperPick_cons (s : State) (k : Nat) (rest : List Nat) :
    helperPick { s with answers := k :: rest } = k := rfl

/-- The queue of choices is no part of what a helper is given. -/
@[simp] theorem helperCall_answers (s : State) (q : List Nat) :
    helperCall { s with answers := q } = helperCall s := rfl

theorem execCallLocal_next {imm : BitVec 32} {s t : State} :
    execCallLocal imm s = .next t ↔
      s.callStack.length + 2 ≤ s.params.maxCallDepth ∧
      ∃ k : Nat, (s.pc : Int) + 1 + imm.toInt = k ∧ k < s.program.length ∧
        secondSlot s.program k = false ∧ t = s.enterFunction k := by
  unfold execCallLocal
  split
  · simp [raise]; omega
  · rename_i h
    simp only [orFault_next, jumpTarget_ok, relativeTarget, and_assoc, next_eq]
    simp [show s.callStack.length + 2 ≤ s.params.maxCallDepth by omega]

theorem execExit_next {s t : State} :
    execExit s = .next t ↔
      ∃ v, s.reg 0 = .value v ∧
        ((s.callStack = [] ∧ t = { s with status := .exited v }) ∨
        ∃ f rest, s.callStack = f :: rest ∧ t = s.leaveFunction f rest) := by
  unfold execExit
  rw [orFault_next]
  simp only [readReg_ok]
  rcases hc : s.callStack with _ | ⟨f, rest⟩ <;> simp [next_eq, -Host.Outcome.next.injEq]

/-! ### 64-bit immediates -/

theorem loadPlatform_next {dst : Reg} {value : Option Word} {what : Feature} {s t : State} :
    loadPlatform dst value what s = .next t ↔
      ∃ v, value = some v ∧ t = (s.writeReg dst v).advance 2 := by
  cases value <;> simp [loadPlatform, raise, next_eq, -Host.Outcome.next.injEq]

theorem loadPlatform_fault {dst : Reg} {value : Option Word} {what : Feature} {s : State}
    {f : Fault} :
    loadPlatform dst value what s = .fault f ↔ value = none ∧ f = .unsupported s.pc what := by
  cases value <;> simp [loadPlatform, raise, eq_comm]

/-! ### The sweep of second slots (41_jump.md R181) -/

/-- One slot further along the sweep. -/
theorem sweep_succ {skip : Bool} {p : List Slot} {k : Nat} {sl : Slot} (h : p[k]? = some sl) :
    sweep skip p (k + 1) = (!(sweep skip p k) && sl.b0 == 0x18) := by
  induction p generalizing skip k with
  | nil => simp at h
  | cons a rest ih =>
    cases k with
    | zero =>
      simp only [List.getElem?_cons_zero, Option.some.injEq] at h
      subst h
      cases rest <;> rfl
    | succ k =>
      rw [sweep, sweep]
      exact ih h

theorem sweep_zero (skip : Bool) (p : List Slot) : sweep skip p 0 = skip := by cases p <;> rfl

/-- The slot after a basic instruction is no second slot. -/
theorem secondSlot_after_basic {p : List Slot} {k : Nat} {sl : Slot} (h : p[k]? = some sl)
    (hb : sl.b0 ≠ 0x18) : secondSlot p (k + 1) = false := by
  have : (sl.b0 == 0x18) = false := beq_eq_false_iff_ne.2 hb
  rw [secondSlot, sweep_succ h, this, Bool.and_false, Bool.and_false]

/-- The slot after a wide instruction's two slots is no second slot. -/
theorem secondSlot_after_wide {p : List Slot} {k : Nat} {sl : Slot} (h : p[k]? = some sl)
    (hw : sl.b0 = 0x18) (hk : secondSlot p k = false) : secondSlot p (k + 2) = false := by
  have hlt : k < p.length := (List.getElem?_eq_some_iff.1 h).1
  have h0 : sweep false p k = false := by simpa [secondSlot, hlt] using hk
  have h1 : sweep false p (k + 1) = true := by simp [sweep_succ h, h0, hw]
  by_cases h2 : k + 1 < p.length
  · have := sweep_succ (skip := false) (List.getElem?_eq_getElem h2)
    simp [secondSlot, this, h1]
  · simp [secondSlot, show ¬k + 2 < p.length by omega]

theorem secondSlot_zero (p : List Slot) : secondSlot p 0 = false := by
  simp [secondSlot, sweep_zero]

theorem secondSlot_past_end (p : List Slot) {k : Nat} (h : p.length ≤ k) : secondSlot p k = false := by
  simp [secondSlot, show ¬k < p.length by omega]

end Sys2Proof.Machine
end

