-- ==== Sys2Proof/Laws/Exec.lean ====
section
/-! SUPPORT. What a step can do, said once per family of instructions: the next state of `exec` as an
update of the old one. The statements about all instructions follow from these. -/

namespace Sys2Proof.Machine

/-- An arithmetic instruction that goes on writes a value to its destination and advances by one. -/
theorem exec_arithmetic {i : Instr} {s t : State} (hf : i.family = .arithmetic)
    (h : exec i s = .next t) :
    ∃ r v, i.writes = some r ∧ t = (s.writeReg r v).advance 1 := by
  cases i <;> first
    | (cases hf; done)
    | (obtain ⟨_, _, _, _, rfl⟩ := alu64_next.1 h; exact ⟨_, _, rfl, rfl⟩)
    | (obtain ⟨_, _, _, _, rfl⟩ := alu32_next.1 h; exact ⟨_, _, rfl, rfl⟩)
    | (obtain ⟨_, _, rfl⟩ := aluUnary_next.1 h; exact ⟨_, _, rfl, rfl⟩)
    | (obtain ⟨_, _, rfl⟩ := moveExtended_next.1 h; exact ⟨_, _, rfl, rfl⟩)
    | (obtain ⟨_, _, h⟩ := orFault_next.1 h; cases h; exact ⟨_, _, rfl, rfl⟩)

/-- A jump that goes on changes `pc` alone: to the next slot, or to a slot that is no second slot. -/
theorem exec_jump {i : Instr} {s t : State} (hf : i.family = .jump) (h : exec i s = .next t) :
    t = s.advance 1 ∨ ∃ k : Nat, t = { s with pc := k } ∧ k < s.program.length ∧
      secondSlot s.program k = false := by
  have key : ∀ {d : Int}, jumpBy s d = .next t →
      ∃ k : Nat, t = { s with pc := k } ∧ k < s.program.length ∧ secondSlot s.program k = false := by
    intro d hd
    obtain ⟨k, -, h1, h2, h3⟩ := jumpBy_next.1 hd
    exact ⟨k, h3, h1, h2⟩
  have key64 : ∀ {c : Word → Word → Bool} {dst : Reg} {src : Src} {off : BitVec 16},
      jump64 c dst src off s = .next t →
      t = s.advance 1 ∨ ∃ k : Nat, t = { s with pc := k } ∧ k < s.program.length ∧
        secondSlot s.program k = false := by
    intro c dst src off hj
    obtain ⟨_, _, _, _, hj⟩ := jump64_next.1 hj
    split at hj
    · exact .inr (key hj)
    · exact .inl hj
  have key32 : ∀ {c : Word32 → Word32 → Bool} {dst : Reg} {src : Src} {off : BitVec 16},
      jump32 c dst src off s = .next t →
      t = s.advance 1 ∨ ∃ k : Nat, t = { s with pc := k } ∧ k < s.program.length ∧
        secondSlot s.program k = false := by
    intro c dst src off hj
    obtain ⟨_, _, _, _, hj⟩ := jump32_next.1 hj
    split at hj
    · exact .inr (key hj)
    · exact .inl hj
  cases i <;> first
    | (cases hf; done)
    | exact .inr (key h)
    | exact key64 h
    | exact key32 h

/-- A load that goes on writes a value to its destination and advances by one. -/
theorem exec_load {i : Instr} {s t : State} (hf : i.family = .load) (h : exec i s = .next t) :
    ∃ r v, i.writes = some r ∧ t = (s.writeReg r v).advance 1 := by
  cases i <;> first
    | (cases hf; done)
    | (obtain ⟨_, _, _, _, rfl⟩ := load_next.1 h; exact ⟨_, _, rfl, rfl⟩)

/-- A 64-bit immediate that goes on writes a value to its destination and advances by two. -/
theorem exec_imm64 {i : Instr} {s t : State} (hf : i.family = .imm64) (h : exec i s = .next t) :
    ∃ r v, i.writes = some r ∧ t = (s.writeReg r v).advance 2 := by
  cases i <;> first
    | (cases hf; done)
    | (cases h; exact ⟨_, _, rfl, rfl⟩)
    | (obtain ⟨_, _, rfl⟩ := loadPlatform_next.1 h; exact ⟨_, _, rfl, rfl⟩)

/-- A store that goes on stores a value of its width at its effective address, inside `Writable`, and
advances by one. -/
theorem exec_store {i : Instr} {s t : State} (hf : i.family = .store) (h : exec i s = .next t) :
    ∃ (m : MemOperand) (b : Word) (w : Nat) (v : BitVec w), i.memOperand = some m ∧ w / 8 = m.size ∧
      s.reg m.base = .value b ∧ (effectiveAddress b m.off).toNat + m.size ≤ 2 ^ 64 ∧
      covered s.memMap.writable (effectiveAddress b m.off).toNat m.size = true ∧
      t = (s.storeValue (effectiveAddress b m.off).toNat v).advance 1 := by
  cases i <;> first
    | (cases hf; done)
    | (obtain ⟨b, hb, h⟩ := storeImm_next.1 h
       obtain ⟨u, hu, rfl⟩ := store_next.1 h
       obtain ⟨h1, -, h2, rfl⟩ := memWrite_ok.1 hu
       exact ⟨_, b, _, _, rfl, rfl, hb, h1, h2, rfl⟩)
    | (obtain ⟨b, v, hb, -, h⟩ := storeReg_next.1 h
       obtain ⟨u, hu, rfl⟩ := store_next.1 h
       obtain ⟨h1, -, h2, rfl⟩ := memWrite_ok.1 hu
       exact ⟨_, b, _, _, rfl, rfl, hb, h1, h2, rfl⟩)

/-- An atomic other than CMPXCHG that goes on stores a value of its width at its effective address,
inside `Readable` and `Writable`, writes the old value to its result register if it has one, and
advances by one. -/
theorem exec_atomic {i : Instr} {s t : State} (hf : i.family = .atomic) (h : exec i s = .next t) :
    ∃ (m : MemOperand) (b : Word) (w : Nat) (v : BitVec w), i.memOperand = some m ∧ w / 8 = m.size ∧
      s.reg m.base = .value b ∧ (effectiveAddress b m.off).toNat + m.size ≤ 2 ^ 64 ∧
      covered s.memMap.readable (effectiveAddress b m.off).toNat m.size = true ∧
      covered s.memMap.writable (effectiveAddress b m.off).toNat m.size = true ∧
      ((i.writes = none ∧ t = (s.storeValue (effectiveAddress b m.off).toNat v).advance 1) ∨
      ∃ r, i.writes = some r ∧ t = ((s.storeValue (effectiveAddress b m.off).toNat v).writeReg r
        ((s.loadValue (effectiveAddress b m.off).toNat w).setWidth 64)).advance 1) := by
  cases i with
  | atomicAdd32 base off src | atomicAdd64 base off src | atomicOr32 base off src
  | atomicOr64 base off src | atomicAnd32 base off src | atomicAnd64 base off src
  | atomicXor32 base off src | atomicXor64 base off src =>
    obtain ⟨b, v, hb, -, hc, rfl⟩ := atomicPlain_next.1 h
    obtain ⟨-, h1, h2, h3⟩ := atomicCheck_ok.1 hc
    exact ⟨_, b, _, _, rfl, rfl, hb, h1, h2, h3, .inl ⟨rfl, rfl⟩⟩
  | atomicFetchAdd32 base off src | atomicFetchAdd64 base off src
  | atomicFetchOr32 base off src | atomicFetchOr64 base off src | atomicFetchAnd32 base off src
  | atomicFetchAnd64 base off src | atomicFetchXor32 base off src
  | atomicFetchXor64 base off src =>
    obtain ⟨b, v, hb, -, hc, rfl⟩ := atomicFetch_next.1 h
    obtain ⟨-, h1, h2, h3⟩ := atomicCheck_ok.1 hc
    exact ⟨_, b, _, _, rfl, rfl, hb, h1, h2, h3, .inr ⟨_, rfl, rfl⟩⟩
  | atomicXchg32 base off src | atomicXchg64 base off src =>
    obtain ⟨b, v, hb, -, hc, rfl⟩ := (atomicFetch_next (f := fun _ v => v)).1 h
    obtain ⟨-, h1, h2, h3⟩ := atomicCheck_ok.1 hc
    exact ⟨_, b, _, _, rfl, rfl, hb, h1, h2, h3, .inr ⟨_, rfl, rfl⟩⟩
  | _ => cases hf

/-- A CMPXCHG that goes on stores at its effective address on a match, or nothing, writes the old value
to R0 and advances by one. -/
theorem exec_compareExchange {i : Instr} {s t : State} (hf : i.family = .compareExchange)
    (h : exec i s = .next t) :
    ∃ (m : MemOperand) (b : Word) (w : Nat) (v : BitVec w) (u : State), i.memOperand = some m ∧
      w / 8 = m.size ∧
      s.reg m.base = .value b ∧ (effectiveAddress b m.off).toNat + m.size ≤ 2 ^ 64 ∧
      covered s.memMap.readable (effectiveAddress b m.off).toNat m.size = true ∧
      covered s.memMap.writable (effectiveAddress b m.off).toNat m.size = true ∧
      (u = s ∨ u = s.storeValue (effectiveAddress b m.off).toNat v) ∧
      t = (u.writeReg 0
        ((s.loadValue (effectiveAddress b m.off).toNat w).setWidth 64)).advance 1 := by
  cases i <;> first
    | (cases hf; done)
    | (obtain ⟨b, v, r0, hb, -, -, hc, rfl⟩ := atomicCompare_next.1 h
       obtain ⟨-, h1, h2, h3⟩ := atomicCheck_ok.1 hc
       refine ⟨_, b, _, v.setWidth _, _, rfl, rfl, hb, h1, h2, h3, ?_, rfl⟩
       split
       · exact .inr rfl
       · exact .inl rfl)

/-- A helper call that goes on is back from a helper of one of the two tables, with an outcome of that
helper. -/
theorem exec_helperCall {i : Instr} {s t : State} (hf : i.family = .helperCall)
    (h : exec i s = .next t) :
    ∃ (e : HelperEntry) (r : HelperReturn), e ∈ s.params.helpers ++ s.params.helpersBtf ∧
      helperOutcome e.helper (helperCall s) (helperPick s) = .returns r ∧
      t = s.nextDraw.afterHelper r := by
  have key : ∀ {table : List HelperEntry} {id : BitVec 32} {e : HelperEntry},
      findHelper table id = some e → runHelper e s = .next t →
      e ∈ table ∧ ∃ r, helperOutcome e.helper (helperCall s) (helperPick s) = .returns r ∧
        t = s.nextDraw.afterHelper r :=
    fun hk he => ⟨List.mem_of_find?_eq_some hk, (runHelper_next.1 he).2⟩
  cases i <;> first
    | (cases hf; done)
    | (change execCallHelper _ s = _ at h
       unfold execCallHelper at h
       split at h
       · cases h
       · rename_i hk
         obtain ⟨h1, r, h2⟩ := key hk h
         exact ⟨_, r, List.mem_append_left _ h1, h2⟩)
    | (change execCallBtf _ s = _ at h
       unfold execCallBtf at h
       split at h
       · cases h
       · rename_i hk
         obtain ⟨h1, r, h2⟩ := key hk h
         exact ⟨_, r, List.mem_append_right _ h1, h2⟩)

/-- A program-local call that goes on has entered its function. -/
theorem exec_localCall {i : Instr} {s t : State} (hf : i.family = .localCall)
    (h : exec i s = .next t) :
    s.callStack.length + 2 ≤ s.params.maxCallDepth ∧ ∃ k : Nat, k < s.program.length ∧
      secondSlot s.program k = false ∧ t = s.enterFunction k := by
  cases i <;> first
    | (cases hf; done)
    | (obtain ⟨h1, k, -, h2, h3, h4⟩ := execCallLocal_next.1 h
       exact ⟨h1, k, h2, h3, h4⟩)

/-- An exit that goes on ends the run or returns to the caller. -/
theorem exec_exit {i : Instr} {s t : State} (hf : i.family = .exit) (h : exec i s = .next t) :
    i = .exit ∧ ∃ v, s.reg 0 = .value v ∧
      ((s.callStack = [] ∧ t = { s with status := .exited v }) ∨
      ∃ f rest, s.callStack = f :: rest ∧ t = s.leaveFunction f rest) := by
  cases i <;> first
    | (cases hf; done)
    | exact ⟨rfl, execExit_next.1 h⟩

end Sys2Proof.Machine
end

