-- ==== Sys2Proof/Laws/Helper.lean ====
section
/-! SUPPORT. The set of outcomes of a helper (41_jump.md R201): what the numbers of outcomes give is
exactly what the rules of a helper list. -/

namespace Sys2Proof.Machine

/-- The check of a row is what the row asks. -/
theorem argsFit_iff {ps : List (Option RegContent)} {args : List RegContent} :
    argsFit ps args = true ↔ ArgsFit ps args := by
  induction ps generalizing args with
  | nil => simp [argsFit, ArgsFit]
  | cons p ps ih =>
    have step : ArgsFit (p :: ps) args ↔
        (∀ c, p = some c → args.head? = some c) ∧ ArgsFit ps args.tail := by
      constructor
      · refine fun h => ⟨fun c hc => ?_, fun k c hk => ?_⟩
        · simpa [List.head?_eq_getElem?] using h 0 c (by simp [hc])
        · simpa using h (k + 1) c (by simpa using hk)
      · rintro ⟨h0, h1⟩ (_ | k) c hk
        · simpa [List.head?_eq_getElem?] using h0 c (by simpa using hk)
        · simpa using h1 k c (by simpa using hk)
    rw [step]
    cases p <;> simp [argsFit, ih]

/-- The outcomes of a written-out helper are those of its first row that fits, else the last set. -/
theorem listed_tableOutcomes {otherwise : HelperOutcomes} {args : List RegContent}
    {rows : List HelperCase} {o : HelperOutcome} :
    Listed (tableOutcomes otherwise args rows) o ↔
      (∃ before r after, rows = before ++ r :: after ∧ (∀ b ∈ before, ¬ArgsFit b.args args) ∧
        ArgsFit r.args args ∧ Listed r.outcomes o) ∨
      ((∀ r ∈ rows, ¬ArgsFit r.args args) ∧ Listed otherwise o) := by
  induction rows with
  | nil => simp [tableOutcomes]
  | cons r rs ih =>
    by_cases hr : ArgsFit r.args args
    · rw [tableOutcomes, if_pos (argsFit_iff.2 hr)]
      constructor
      · exact fun h => .inl ⟨[], r, rs, rfl, nofun, hr, h⟩
      · rintro (⟨_ | ⟨b, before⟩, q, after, he, hb, -, ho⟩ | ⟨h, -⟩)
        · cases he; exact ho
        · cases he; exact absurd hr (hb _ List.mem_cons_self)
        · exact absurd hr (h _ List.mem_cons_self)
    · rw [tableOutcomes, if_neg (fun h => hr (argsFit_iff.1 h)), ih]
      constructor
      · rintro (⟨before, q, after, rfl, hb, h1, h2⟩ | ⟨h1, h2⟩)
        · exact .inl ⟨r :: before, q, after, rfl, by simpa [hr] using hb, h1, h2⟩
        · exact .inr ⟨by simpa [hr] using h1, h2⟩
      · rintro (⟨_ | ⟨b, before⟩, q, after, he, hb, h1, h2⟩ | ⟨h1, h2⟩)
        · cases he; exact absurd h1 hr
        · cases he
          exact .inl ⟨before, q, after, rfl, fun x hx => hb x (List.mem_cons_of_mem _ hx), h1, h2⟩
        · exact .inr ⟨fun x hx => h1 x (List.mem_cons_of_mem _ hx), h2⟩

/-- The set of outcomes of a helper is that of the outcomes its numbers give. -/
theorem givesOutcome_iff {h : Helper} {call : HelperCall} {o : HelperOutcome} :
    GivesOutcome h call o ↔ ∃ k, helperOutcome h call k = o := by
  cases h with
  | platform name => rfl
  | table rows otherwise =>
    exact listed_tableOutcomes.symm.trans (List.mem_cons.symm.trans pickOutcome_iff.symm)

end Sys2Proof.Machine
end

