-- ==== Sys2Proof/Laws/PerInstr.lean ====
section
/-! SUPPORT. One lemma per instruction: the fields the encoder writes for it are those its form of the
decoder reads it from. -/

set_option Elab.async false

namespace Sys2Proof.Laws.EncodedFields

/-- The fields of the first slot, with `next_imm` for a wide instruction, decode to the instruction
before the checks of 30_encoding.md R96 steps 6 to 8. -/
def Statement (i : Instr) : Prop :=
  if i.wide then i.fields.opcode = wideOpcode ∧ decodeWide i.fields i.nextImm = some i
  else i.fields.opcode ≠ wideOpcode ∧ i.fields.legacy = false ∧ decodeBasic i.fields = some i

theorem add64 (dst : Reg) (src : Src) : Statement (.add64 dst src) := by
  cases src <;> simp [Statement, Instr.wide, Instr.fields, wideOpcode, Fields.legacy, Fields.cls,
    Fields.mode, Fields.ofTwoOperand, Fields.twoOperand, Fields.s, Fields.code, opcodeOf,
    decodeBasic, decodeAlu64]

theorem add32 (dst : Reg) (src : Src) : Statement (.add32 dst src) := by
  cases src <;> simp [Statement, Instr.wide, Instr.fields, wideOpcode, Fields.legacy, Fields.cls,
    Fields.mode, Fields.ofTwoOperand, Fields.twoOperand, Fields.s, Fields.code, opcodeOf,
    decodeBasic, decodeAlu32]

theorem sub64 (dst : Reg) (src : Src) : Statement (.sub64 dst src) := by
  cases src <;> simp [Statement, Instr.wide, Instr.fields, wideOpcode, Fields.legacy, Fields.cls,
    Fields.mode, Fields.ofTwoOperand, Fields.twoOperand, Fields.s, Fields.code, opcodeOf,
    decodeBasic, decodeAlu64]

theorem sub32 (dst : Reg) (src : Src) : Statement (.sub32 dst src) := by
  cases src <;> simp [Statement, Instr.wide, Instr.fields, wideOpcode, Fields.legacy, Fields.cls,
    Fields.mode, Fields.ofTwoOperand, Fields.twoOperand, Fields.s, Fields.code, opcodeOf,
    decodeBasic, decodeAlu32]

theorem mul64 (dst : Reg) (src : Src) : Statement (.mul64 dst src) := by
  cases src <;> simp [Statement, Instr.wide, Instr.fields, wideOpcode, Fields.legacy, Fields.cls,
    Fields.mode, Fields.ofTwoOperand, Fields.twoOperand, Fields.s, Fields.code, opcodeOf,
    decodeBasic, decodeAlu64]

theorem mul32 (dst : Reg) (src : Src) : Statement (.mul32 dst src) := by
  cases src <;> simp [Statement, Instr.wide, Instr.fields, wideOpcode, Fields.legacy, Fields.cls,
    Fields.mode, Fields.ofTwoOperand, Fields.twoOperand, Fields.s, Fields.code, opcodeOf,
    decodeBasic, decodeAlu32]

theorem div64 (dst : Reg) (src : Src) : Statement (.div64 dst src) := by
  cases src <;> simp [Statement, Instr.wide, Instr.fields, wideOpcode, Fields.legacy, Fields.cls,
    Fields.mode, Fields.ofTwoOperand, Fields.twoOperand, Fields.s, Fields.code, opcodeOf,
    decodeBasic, decodeAlu64]

theorem div32 (dst : Reg) (src : Src) : Statement (.div32 dst src) := by
  cases src <;> simp [Statement, Instr.wide, Instr.fields, wideOpcode, Fields.legacy, Fields.cls,
    Fields.mode, Fields.ofTwoOperand, Fields.twoOperand, Fields.s, Fields.code, opcodeOf,
    decodeBasic, decodeAlu32]

theorem sdiv64 (dst : Reg) (src : Src) : Statement (.sdiv64 dst src) := by
  cases src <;> simp [Statement, Instr.wide, Instr.fields, wideOpcode, Fields.legacy, Fields.cls,
    Fields.mode, Fields.ofTwoOperand, Fields.twoOperand, Fields.s, Fields.code, opcodeOf,
    decodeBasic, decodeAlu64]

theorem sdiv32 (dst : Reg) (src : Src) : Statement (.sdiv32 dst src) := by
  cases src <;> simp [Statement, Instr.wide, Instr.fields, wideOpcode, Fields.legacy, Fields.cls,
    Fields.mode, Fields.ofTwoOperand, Fields.twoOperand, Fields.s, Fields.code, opcodeOf,
    decodeBasic, decodeAlu32]

theorem or64 (dst : Reg) (src : Src) : Statement (.or64 dst src) := by
  cases src <;> simp [Statement, Instr.wide, Instr.fields, wideOpcode, Fields.legacy, Fields.cls,
    Fields.mode, Fields.ofTwoOperand, Fields.twoOperand, Fields.s, Fields.code, opcodeOf,
    decodeBasic, decodeAlu64]

theorem or32 (dst : Reg) (src : Src) : Statement (.or32 dst src) := by
  cases src <;> simp [Statement, Instr.wide, Instr.fields, wideOpcode, Fields.legacy, Fields.cls,
    Fields.mode, Fields.ofTwoOperand, Fields.twoOperand, Fields.s, Fields.code, opcodeOf,
    decodeBasic, decodeAlu32]

theorem and64 (dst : Reg) (src : Src) : Statement (.and64 dst src) := by
  cases src <;> simp [Statement, Instr.wide, Instr.fields, wideOpcode, Fields.legacy, Fields.cls,
    Fields.mode, Fields.ofTwoOperand, Fields.twoOperand, Fields.s, Fields.code, opcodeOf,
    decodeBasic, decodeAlu64]

theorem and32 (dst : Reg) (src : Src) : Statement (.and32 dst src) := by
  cases src <;> simp [Statement, Instr.wide, Instr.fields, wideOpcode, Fields.legacy, Fields.cls,
    Fields.mode, Fields.ofTwoOperand, Fields.twoOperand, Fields.s, Fields.code, opcodeOf,
    decodeBasic, decodeAlu32]

theorem lsh64 (dst : Reg) (src : Src) : Statement (.lsh64 dst src) := by
  cases src <;> simp [Statement, Instr.wide, Instr.fields, wideOpcode, Fields.legacy, Fields.cls,
    Fields.mode, Fields.ofTwoOperand, Fields.twoOperand, Fields.s, Fields.code, opcodeOf,
    decodeBasic, decodeAlu64]

theorem lsh32 (dst : Reg) (src : Src) : Statement (.lsh32 dst src) := by
  cases src <;> simp [Statement, Instr.wide, Instr.fields, wideOpcode, Fields.legacy, Fields.cls,
    Fields.mode, Fields.ofTwoOperand, Fields.twoOperand, Fields.s, Fields.code, opcodeOf,
    decodeBasic, decodeAlu32]

theorem rsh64 (dst : Reg) (src : Src) : Statement (.rsh64 dst src) := by
  cases src <;> simp [Statement, Instr.wide, Instr.fields, wideOpcode, Fields.legacy, Fields.cls,
    Fields.mode, Fields.ofTwoOperand, Fields.twoOperand, Fields.s, Fields.code, opcodeOf,
    decodeBasic, decodeAlu64]

theorem rsh32 (dst : Reg) (src : Src) : Statement (.rsh32 dst src) := by
  cases src <;> simp [Statement, Instr.wide, Instr.fields, wideOpcode, Fields.legacy, Fields.cls,
    Fields.mode, Fields.ofTwoOperand, Fields.twoOperand, Fields.s, Fields.code, opcodeOf,
    decodeBasic, decodeAlu32]

theorem mod64 (dst : Reg) (src : Src) : Statement (.mod64 dst src) := by
  cases src <;> simp [Statement, Instr.wide, Instr.fields, wideOpcode, Fields.legacy, Fields.cls,
    Fields.mode, Fields.ofTwoOperand, Fields.twoOperand, Fields.s, Fields.code, opcodeOf,
    decodeBasic, decodeAlu64]

theorem mod32 (dst : Reg) (src : Src) : Statement (.mod32 dst src) := by
  cases src <;> simp [Statement, Instr.wide, Instr.fields, wideOpcode, Fields.legacy, Fields.cls,
    Fields.mode, Fields.ofTwoOperand, Fields.twoOperand, Fields.s, Fields.code, opcodeOf,
    decodeBasic, decodeAlu32]

theorem smod64 (dst : Reg) (src : Src) : Statement (.smod64 dst src) := by
  cases src <;> simp [Statement, Instr.wide, Instr.fields, wideOpcode, Fields.legacy, Fields.cls,
    Fields.mode, Fields.ofTwoOperand, Fields.twoOperand, Fields.s, Fields.code, opcodeOf,
    decodeBasic, decodeAlu64]

theorem smod32 (dst : Reg) (src : Src) : Statement (.smod32 dst src) := by
  cases src <;> simp [Statement, Instr.wide, Instr.fields, wideOpcode, Fields.legacy, Fields.cls,
    Fields.mode, Fields.ofTwoOperand, Fields.twoOperand, Fields.s, Fields.code, opcodeOf,
    decodeBasic, decodeAlu32]

theorem xor64 (dst : Reg) (src : Src) : Statement (.xor64 dst src) := by
  cases src <;> simp [Statement, Instr.wide, Instr.fields, wideOpcode, Fields.legacy, Fields.cls,
    Fields.mode, Fields.ofTwoOperand, Fields.twoOperand, Fields.s, Fields.code, opcodeOf,
    decodeBasic, decodeAlu64]

theorem xor32 (dst : Reg) (src : Src) : Statement (.xor32 dst src) := by
  cases src <;> simp [Statement, Instr.wide, Instr.fields, wideOpcode, Fields.legacy, Fields.cls,
    Fields.mode, Fields.ofTwoOperand, Fields.twoOperand, Fields.s, Fields.code, opcodeOf,
    decodeBasic, decodeAlu32]

theorem mov64 (dst : Reg) (src : Src) : Statement (.mov64 dst src) := by
  cases src <;> simp [Statement, Instr.wide, Instr.fields, wideOpcode, Fields.legacy, Fields.cls,
    Fields.mode, Fields.ofTwoOperand, Fields.twoOperand, Fields.s, Fields.code, opcodeOf,
    decodeBasic, decodeAlu64]

theorem mov32 (dst : Reg) (src : Src) : Statement (.mov32 dst src) := by
  cases src <;> simp [Statement, Instr.wide, Instr.fields, wideOpcode, Fields.legacy, Fields.cls,
    Fields.mode, Fields.ofTwoOperand, Fields.twoOperand, Fields.s, Fields.code, opcodeOf,
    decodeBasic, decodeAlu32]

theorem arsh64 (dst : Reg) (src : Src) : Statement (.arsh64 dst src) := by
  cases src <;> simp [Statement, Instr.wide, Instr.fields, wideOpcode, Fields.legacy, Fields.cls,
    Fields.mode, Fields.ofTwoOperand, Fields.twoOperand, Fields.s, Fields.code, opcodeOf,
    decodeBasic, decodeAlu64]

theorem arsh32 (dst : Reg) (src : Src) : Statement (.arsh32 dst src) := by
  cases src <;> simp [Statement, Instr.wide, Instr.fields, wideOpcode, Fields.legacy, Fields.cls,
    Fields.mode, Fields.ofTwoOperand, Fields.twoOperand, Fields.s, Fields.code, opcodeOf,
    decodeBasic, decodeAlu32]

theorem neg64 (dst : Reg) : Statement (.neg64 dst) := by
  simp [Statement, Instr.wide, Instr.fields, wideOpcode, Fields.legacy, Fields.cls, Fields.mode,
    Fields.negation, Fields.s, Fields.code, opcodeOf, decodeBasic, decodeAlu64]

theorem neg32 (dst : Reg) : Statement (.neg32 dst) := by
  simp [Statement, Instr.wide, Instr.fields, wideOpcode, Fields.legacy, Fields.cls, Fields.mode,
    Fields.negation, Fields.s, Fields.code, opcodeOf, decodeBasic, decodeAlu32]

theorem movsx8_64 (dst : Reg) (src : Reg) : Statement (.movsx8_64 dst src) := by
  simp [Statement, Instr.wide, Instr.fields, wideOpcode, Fields.legacy, Fields.cls, Fields.mode,
    Fields.registerMove, Fields.s, Fields.code, opcodeOf, decodeBasic, decodeAlu64]

theorem movsx16_64 (dst : Reg) (src : Reg) : Statement (.movsx16_64 dst src) := by
  simp [Statement, Instr.wide, Instr.fields, wideOpcode, Fields.legacy, Fields.cls, Fields.mode,
    Fields.registerMove, Fields.s, Fields.code, opcodeOf, decodeBasic, decodeAlu64]

theorem movsx32_64 (dst : Reg) (src : Reg) : Statement (.movsx32_64 dst src) := by
  simp [Statement, Instr.wide, Instr.fields, wideOpcode, Fields.legacy, Fields.cls, Fields.mode,
    Fields.registerMove, Fields.s, Fields.code, opcodeOf, decodeBasic, decodeAlu64]

theorem movsx8_32 (dst : Reg) (src : Reg) : Statement (.movsx8_32 dst src) := by
  simp [Statement, Instr.wide, Instr.fields, wideOpcode, Fields.legacy, Fields.cls, Fields.mode,
    Fields.registerMove, Fields.s, Fields.code, opcodeOf, decodeBasic, decodeAlu32]

theorem movsx16_32 (dst : Reg) (src : Reg) : Statement (.movsx16_32 dst src) := by
  simp [Statement, Instr.wide, Instr.fields, wideOpcode, Fields.legacy, Fields.cls, Fields.mode,
    Fields.registerMove, Fields.s, Fields.code, opcodeOf, decodeBasic, decodeAlu32]

theorem le16 (dst : Reg) : Statement (.le16 dst) := by
  simp [Statement, Instr.wide, Instr.fields, wideOpcode, Fields.legacy, Fields.cls, Fields.mode,
    Fields.swap32, Fields.swapOf, Fields.s, Fields.code, opcodeOf, decodeBasic, decodeAlu32]

theorem le32 (dst : Reg) : Statement (.le32 dst) := by
  simp [Statement, Instr.wide, Instr.fields, wideOpcode, Fields.legacy, Fields.cls, Fields.mode,
    Fields.swap32, Fields.swapOf, Fields.s, Fields.code, opcodeOf, decodeBasic, decodeAlu32]

theorem le64 (dst : Reg) : Statement (.le64 dst) := by
  simp [Statement, Instr.wide, Instr.fields, wideOpcode, Fields.legacy, Fields.cls, Fields.mode,
    Fields.swap32, Fields.swapOf, Fields.s, Fields.code, opcodeOf, decodeBasic, decodeAlu32]

theorem be16 (dst : Reg) : Statement (.be16 dst) := by
  simp [Statement, Instr.wide, Instr.fields, wideOpcode, Fields.legacy, Fields.cls, Fields.mode,
    Fields.swap32, Fields.swapOf, Fields.s, Fields.code, opcodeOf, decodeBasic, decodeAlu32]

theorem be32 (dst : Reg) : Statement (.be32 dst) := by
  simp [Statement, Instr.wide, Instr.fields, wideOpcode, Fields.legacy, Fields.cls, Fields.mode,
    Fields.swap32, Fields.swapOf, Fields.s, Fields.code, opcodeOf, decodeBasic, decodeAlu32]

theorem be64 (dst : Reg) : Statement (.be64 dst) := by
  simp [Statement, Instr.wide, Instr.fields, wideOpcode, Fields.legacy, Fields.cls, Fields.mode,
    Fields.swap32, Fields.swapOf, Fields.s, Fields.code, opcodeOf, decodeBasic, decodeAlu32]

theorem bswap16 (dst : Reg) : Statement (.bswap16 dst) := by
  simp [Statement, Instr.wide, Instr.fields, wideOpcode, Fields.legacy, Fields.cls, Fields.mode,
    Fields.swap64, Fields.swapOf, Fields.s, Fields.code, opcodeOf, decodeBasic, decodeAlu64]

theorem bswap32 (dst : Reg) : Statement (.bswap32 dst) := by
  simp [Statement, Instr.wide, Instr.fields, wideOpcode, Fields.legacy, Fields.cls, Fields.mode,
    Fields.swap64, Fields.swapOf, Fields.s, Fields.code, opcodeOf, decodeBasic, decodeAlu64]

theorem bswap64 (dst : Reg) : Statement (.bswap64 dst) := by
  simp [Statement, Instr.wide, Instr.fields, wideOpcode, Fields.legacy, Fields.cls, Fields.mode,
    Fields.swap64, Fields.swapOf, Fields.s, Fields.code, opcodeOf, decodeBasic, decodeAlu64]

theorem ja (off : BitVec 16) : Statement (.ja off) := by
  simp [Statement, Instr.wide, Instr.fields, wideOpcode, Fields.legacy, Fields.cls, Fields.mode,
    Fields.s, Fields.code, opcodeOf, decodeBasic, decodeJmp]

theorem ja32 (imm : BitVec 32) : Statement (.ja32 imm) := by
  simp [Statement, Instr.wide, Instr.fields, wideOpcode, Fields.legacy, Fields.cls, Fields.mode,
    Fields.s, Fields.code, opcodeOf, decodeBasic, decodeJmp32]

theorem jeq64 (dst : Reg) (src : Src) (off : BitVec 16) : Statement (.jeq64 dst src off) := by
  cases src <;> simp [Statement, Instr.wide, Instr.fields, wideOpcode, Fields.legacy, Fields.cls,
    Fields.mode, Fields.ofConditional, Fields.conditional, Fields.s, Fields.code, opcodeOf,
    decodeBasic, decodeJmp]

theorem jeq32 (dst : Reg) (src : Src) (off : BitVec 16) : Statement (.jeq32 dst src off) := by
  cases src <;> simp [Statement, Instr.wide, Instr.fields, wideOpcode, Fields.legacy, Fields.cls,
    Fields.mode, Fields.ofConditional, Fields.conditional, Fields.s, Fields.code, opcodeOf,
    decodeBasic, decodeJmp32]

theorem jgt64 (dst : Reg) (src : Src) (off : BitVec 16) : Statement (.jgt64 dst src off) := by
  cases src <;> simp [Statement, Instr.wide, Instr.fields, wideOpcode, Fields.legacy, Fields.cls,
    Fields.mode, Fields.ofConditional, Fields.conditional, Fields.s, Fields.code, opcodeOf,
    decodeBasic, decodeJmp]

theorem jgt32 (dst : Reg) (src : Src) (off : BitVec 16) : Statement (.jgt32 dst src off) := by
  cases src <;> simp [Statement, Instr.wide, Instr.fields, wideOpcode, Fields.legacy, Fields.cls,
    Fields.mode, Fields.ofConditional, Fields.conditional, Fields.s, Fields.code, opcodeOf,
    decodeBasic, decodeJmp32]

theorem jge64 (dst : Reg) (src : Src) (off : BitVec 16) : Statement (.jge64 dst src off) := by
  cases src <;> simp [Statement, Instr.wide, Instr.fields, wideOpcode, Fields.legacy, Fields.cls,
    Fields.mode, Fields.ofConditional, Fields.conditional, Fields.s, Fields.code, opcodeOf,
    decodeBasic, decodeJmp]

theorem jge32 (dst : Reg) (src : Src) (off : BitVec 16) : Statement (.jge32 dst src off) := by
  cases src <;> simp [Statement, Instr.wide, Instr.fields, wideOpcode, Fields.legacy, Fields.cls,
    Fields.mode, Fields.ofConditional, Fields.conditional, Fields.s, Fields.code, opcodeOf,
    decodeBasic, decodeJmp32]

theorem jset64 (dst : Reg) (src : Src) (off : BitVec 16) : Statement (.jset64 dst src off) := by
  cases src <;> simp [Statement, Instr.wide, Instr.fields, wideOpcode, Fields.legacy, Fields.cls,
    Fields.mode, Fields.ofConditional, Fields.conditional, Fields.s, Fields.code, opcodeOf,
    decodeBasic, decodeJmp]

theorem jset32 (dst : Reg) (src : Src) (off : BitVec 16) : Statement (.jset32 dst src off) := by
  cases src <;> simp [Statement, Instr.wide, Instr.fields, wideOpcode, Fields.legacy, Fields.cls,
    Fields.mode, Fields.ofConditional, Fields.conditional, Fields.s, Fields.code, opcodeOf,
    decodeBasic, decodeJmp32]

theorem jne64 (dst : Reg) (src : Src) (off : BitVec 16) : Statement (.jne64 dst src off) := by
  cases src <;> simp [Statement, Instr.wide, Instr.fields, wideOpcode, Fields.legacy, Fields.cls,
    Fields.mode, Fields.ofConditional, Fields.conditional, Fields.s, Fields.code, opcodeOf,
    decodeBasic, decodeJmp]

theorem jne32 (dst : Reg) (src : Src) (off : BitVec 16) : Statement (.jne32 dst src off) := by
  cases src <;> simp [Statement, Instr.wide, Instr.fields, wideOpcode, Fields.legacy, Fields.cls,
    Fields.mode, Fields.ofConditional, Fields.conditional, Fields.s, Fields.code, opcodeOf,
    decodeBasic, decodeJmp32]

theorem jsgt64 (dst : Reg) (src : Src) (off : BitVec 16) : Statement (.jsgt64 dst src off) := by
  cases src <;> simp [Statement, Instr.wide, Instr.fields, wideOpcode, Fields.legacy, Fields.cls,
    Fields.mode, Fields.ofConditional, Fields.conditional, Fields.s, Fields.code, opcodeOf,
    decodeBasic, decodeJmp]

theorem jsgt32 (dst : Reg) (src : Src) (off : BitVec 16) : Statement (.jsgt32 dst src off) := by
  cases src <;> simp [Statement, Instr.wide, Instr.fields, wideOpcode, Fields.legacy, Fields.cls,
    Fields.mode, Fields.ofConditional, Fields.conditional, Fields.s, Fields.code, opcodeOf,
    decodeBasic, decodeJmp32]

theorem jsge64 (dst : Reg) (src : Src) (off : BitVec 16) : Statement (.jsge64 dst src off) := by
  cases src <;> simp [Statement, Instr.wide, Instr.fields, wideOpcode, Fields.legacy, Fields.cls,
    Fields.mode, Fields.ofConditional, Fields.conditional, Fields.s, Fields.code, opcodeOf,
    decodeBasic, decodeJmp]

theorem jsge32 (dst : Reg) (src : Src) (off : BitVec 16) : Statement (.jsge32 dst src off) := by
  cases src <;> simp [Statement, Instr.wide, Instr.fields, wideOpcode, Fields.legacy, Fields.cls,
    Fields.mode, Fields.ofConditional, Fields.conditional, Fields.s, Fields.code, opcodeOf,
    decodeBasic, decodeJmp32]

theorem jlt64 (dst : Reg) (src : Src) (off : BitVec 16) : Statement (.jlt64 dst src off) := by
  cases src <;> simp [Statement, Instr.wide, Instr.fields, wideOpcode, Fields.legacy, Fields.cls,
    Fields.mode, Fields.ofConditional, Fields.conditional, Fields.s, Fields.code, opcodeOf,
    decodeBasic, decodeJmp]

theorem jlt32 (dst : Reg) (src : Src) (off : BitVec 16) : Statement (.jlt32 dst src off) := by
  cases src <;> simp [Statement, Instr.wide, Instr.fields, wideOpcode, Fields.legacy, Fields.cls,
    Fields.mode, Fields.ofConditional, Fields.conditional, Fields.s, Fields.code, opcodeOf,
    decodeBasic, decodeJmp32]

theorem jle64 (dst : Reg) (src : Src) (off : BitVec 16) : Statement (.jle64 dst src off) := by
  cases src <;> simp [Statement, Instr.wide, Instr.fields, wideOpcode, Fields.legacy, Fields.cls,
    Fields.mode, Fields.ofConditional, Fields.conditional, Fields.s, Fields.code, opcodeOf,
    decodeBasic, decodeJmp]

theorem jle32 (dst : Reg) (src : Src) (off : BitVec 16) : Statement (.jle32 dst src off) := by
  cases src <;> simp [Statement, Instr.wide, Instr.fields, wideOpcode, Fields.legacy, Fields.cls,
    Fields.mode, Fields.ofConditional, Fields.conditional, Fields.s, Fields.code, opcodeOf,
    decodeBasic, decodeJmp32]

theorem jslt64 (dst : Reg) (src : Src) (off : BitVec 16) : Statement (.jslt64 dst src off) := by
  cases src <;> simp [Statement, Instr.wide, Instr.fields, wideOpcode, Fields.legacy, Fields.cls,
    Fields.mode, Fields.ofConditional, Fields.conditional, Fields.s, Fields.code, opcodeOf,
    decodeBasic, decodeJmp]

theorem jslt32 (dst : Reg) (src : Src) (off : BitVec 16) : Statement (.jslt32 dst src off) := by
  cases src <;> simp [Statement, Instr.wide, Instr.fields, wideOpcode, Fields.legacy, Fields.cls,
    Fields.mode, Fields.ofConditional, Fields.conditional, Fields.s, Fields.code, opcodeOf,
    decodeBasic, decodeJmp32]

theorem jsle64 (dst : Reg) (src : Src) (off : BitVec 16) : Statement (.jsle64 dst src off) := by
  cases src <;> simp [Statement, Instr.wide, Instr.fields, wideOpcode, Fields.legacy, Fields.cls,
    Fields.mode, Fields.ofConditional, Fields.conditional, Fields.s, Fields.code, opcodeOf,
    decodeBasic, decodeJmp]

theorem jsle32 (dst : Reg) (src : Src) (off : BitVec 16) : Statement (.jsle32 dst src off) := by
  cases src <;> simp [Statement, Instr.wide, Instr.fields, wideOpcode, Fields.legacy, Fields.cls,
    Fields.mode, Fields.ofConditional, Fields.conditional, Fields.s, Fields.code, opcodeOf,
    decodeBasic, decodeJmp32]

theorem callHelper (imm : BitVec 32) : Statement (.callHelper imm) := by
  simp [Statement, Instr.wide, Instr.fields, wideOpcode, Fields.legacy, Fields.cls, Fields.mode,
    Fields.s, Fields.code, opcodeOf, decodeBasic, decodeJmp, Fields.call]

theorem callLocal (imm : BitVec 32) : Statement (.callLocal imm) := by
  simp [Statement, Instr.wide, Instr.fields, wideOpcode, Fields.legacy, Fields.cls, Fields.mode,
    Fields.s, Fields.code, opcodeOf, decodeBasic, decodeJmp, Fields.call]

theorem callBtf (imm : BitVec 32) : Statement (.callBtf imm) := by
  simp [Statement, Instr.wide, Instr.fields, wideOpcode, Fields.legacy, Fields.cls, Fields.mode,
    Fields.s, Fields.code, opcodeOf, decodeBasic, decodeJmp, Fields.call]

theorem exit : Statement (.exit) := by
  simp [Statement, Instr.wide, Instr.fields, wideOpcode, Fields.legacy, Fields.cls, Fields.mode,
    Fields.s, Fields.code, opcodeOf, decodeBasic, decodeJmp]

theorem ldxw (dst : Reg) (base : Reg) (off : BitVec 16) : Statement (.ldxw dst base off) := by
  simp [Statement, Instr.wide, Instr.fields, wideOpcode, Fields.legacy, Fields.cls, Fields.mode,
    Fields.load, Fields.size, memOpcodeOf, decodeBasic, decodeLdx]

theorem ldxh (dst : Reg) (base : Reg) (off : BitVec 16) : Statement (.ldxh dst base off) := by
  simp [Statement, Instr.wide, Instr.fields, wideOpcode, Fields.legacy, Fields.cls, Fields.mode,
    Fields.load, Fields.size, memOpcodeOf, decodeBasic, decodeLdx]

theorem ldxb (dst : Reg) (base : Reg) (off : BitVec 16) : Statement (.ldxb dst base off) := by
  simp [Statement, Instr.wide, Instr.fields, wideOpcode, Fields.legacy, Fields.cls, Fields.mode,
    Fields.load, Fields.size, memOpcodeOf, decodeBasic, decodeLdx]

theorem ldxdw (dst : Reg) (base : Reg) (off : BitVec 16) : Statement (.ldxdw dst base off) := by
  simp [Statement, Instr.wide, Instr.fields, wideOpcode, Fields.legacy, Fields.cls, Fields.mode,
    Fields.load, Fields.size, memOpcodeOf, decodeBasic, decodeLdx]

theorem ldxsw (dst : Reg) (base : Reg) (off : BitVec 16) : Statement (.ldxsw dst base off) := by
  simp [Statement, Instr.wide, Instr.fields, wideOpcode, Fields.legacy, Fields.cls, Fields.mode,
    Fields.load, Fields.size, memOpcodeOf, decodeBasic, decodeLdx]

theorem ldxsh (dst : Reg) (base : Reg) (off : BitVec 16) : Statement (.ldxsh dst base off) := by
  simp [Statement, Instr.wide, Instr.fields, wideOpcode, Fields.legacy, Fields.cls, Fields.mode,
    Fields.load, Fields.size, memOpcodeOf, decodeBasic, decodeLdx]

theorem ldxsb (dst : Reg) (base : Reg) (off : BitVec 16) : Statement (.ldxsb dst base off) := by
  simp [Statement, Instr.wide, Instr.fields, wideOpcode, Fields.legacy, Fields.cls, Fields.mode,
    Fields.load, Fields.size, memOpcodeOf, decodeBasic, decodeLdx]

theorem stw (base : Reg) (off : BitVec 16) (imm : BitVec 32) : Statement (.stw base off imm) := by
  simp [Statement, Instr.wide, Instr.fields, wideOpcode, Fields.legacy, Fields.cls, Fields.mode,
    Fields.storeImm, Fields.size, memOpcodeOf, decodeBasic, decodeSt]

theorem sth (base : Reg) (off : BitVec 16) (imm : BitVec 32) : Statement (.sth base off imm) := by
  simp [Statement, Instr.wide, Instr.fields, wideOpcode, Fields.legacy, Fields.cls, Fields.mode,
    Fields.storeImm, Fields.size, memOpcodeOf, decodeBasic, decodeSt]

theorem stb (base : Reg) (off : BitVec 16) (imm : BitVec 32) : Statement (.stb base off imm) := by
  simp [Statement, Instr.wide, Instr.fields, wideOpcode, Fields.legacy, Fields.cls, Fields.mode,
    Fields.storeImm, Fields.size, memOpcodeOf, decodeBasic, decodeSt]

theorem stdw (base : Reg) (off : BitVec 16) (imm : BitVec 32) : Statement (.stdw base off imm) := by
  simp [Statement, Instr.wide, Instr.fields, wideOpcode, Fields.legacy, Fields.cls, Fields.mode,
    Fields.storeImm, Fields.size, memOpcodeOf, decodeBasic, decodeSt]

theorem stxw (base : Reg) (off : BitVec 16) (src : Reg) : Statement (.stxw base off src) := by
  simp [Statement, Instr.wide, Instr.fields, wideOpcode, Fields.legacy, Fields.cls, Fields.mode,
    Fields.storeReg, Fields.size, memOpcodeOf, decodeBasic, decodeStx]

theorem stxh (base : Reg) (off : BitVec 16) (src : Reg) : Statement (.stxh base off src) := by
  simp [Statement, Instr.wide, Instr.fields, wideOpcode, Fields.legacy, Fields.cls, Fields.mode,
    Fields.storeReg, Fields.size, memOpcodeOf, decodeBasic, decodeStx]

theorem stxb (base : Reg) (off : BitVec 16) (src : Reg) : Statement (.stxb base off src) := by
  simp [Statement, Instr.wide, Instr.fields, wideOpcode, Fields.legacy, Fields.cls, Fields.mode,
    Fields.storeReg, Fields.size, memOpcodeOf, decodeBasic, decodeStx]

theorem stxdw (base : Reg) (off : BitVec 16) (src : Reg) : Statement (.stxdw base off src) := by
  simp [Statement, Instr.wide, Instr.fields, wideOpcode, Fields.legacy, Fields.cls, Fields.mode,
    Fields.storeReg, Fields.size, memOpcodeOf, decodeBasic, decodeStx]

theorem atomicAdd32 (base : Reg) (off : BitVec 16) (src : Reg) : Statement (.atomicAdd32 base off src) := by
  simp [Statement, Instr.wide, Instr.fields, wideOpcode, Fields.legacy, Fields.cls, Fields.mode,
    Fields.atomic, Fields.size, memOpcodeOf, decodeBasic, decodeStx, decodeAtomic32]

theorem atomicAdd64 (base : Reg) (off : BitVec 16) (src : Reg) : Statement (.atomicAdd64 base off src) := by
  simp [Statement, Instr.wide, Instr.fields, wideOpcode, Fields.legacy, Fields.cls, Fields.mode,
    Fields.atomic, Fields.size, memOpcodeOf, decodeBasic, decodeStx, decodeAtomic64]

theorem atomicOr32 (base : Reg) (off : BitVec 16) (src : Reg) : Statement (.atomicOr32 base off src) := by
  simp [Statement, Instr.wide, Instr.fields, wideOpcode, Fields.legacy, Fields.cls, Fields.mode,
    Fields.atomic, Fields.size, memOpcodeOf, decodeBasic, decodeStx, decodeAtomic32]

theorem atomicOr64 (base : Reg) (off : BitVec 16) (src : Reg) : Statement (.atomicOr64 base off src) := by
  simp [Statement, Instr.wide, Instr.fields, wideOpcode, Fields.legacy, Fields.cls, Fields.mode,
    Fields.atomic, Fields.size, memOpcodeOf, decodeBasic, decodeStx, decodeAtomic64]

theorem atomicAnd32 (base : Reg) (off : BitVec 16) (src : Reg) : Statement (.atomicAnd32 base off src) := by
  simp [Statement, Instr.wide, Instr.fields, wideOpcode, Fields.legacy, Fields.cls, Fields.mode,
    Fields.atomic, Fields.size, memOpcodeOf, decodeBasic, decodeStx, decodeAtomic32]

theorem atomicAnd64 (base : Reg) (off : BitVec 16) (src : Reg) : Statement (.atomicAnd64 base off src) := by
  simp [Statement, Instr.wide, Instr.fields, wideOpcode, Fields.legacy, Fields.cls, Fields.mode,
    Fields.atomic, Fields.size, memOpcodeOf, decodeBasic, decodeStx, decodeAtomic64]

theorem atomicXor32 (base : Reg) (off : BitVec 16) (src : Reg) : Statement (.atomicXor32 base off src) := by
  simp [Statement, Instr.wide, Instr.fields, wideOpcode, Fields.legacy, Fields.cls, Fields.mode,
    Fields.atomic, Fields.size, memOpcodeOf, decodeBasic, decodeStx, decodeAtomic32]

theorem atomicXor64 (base : Reg) (off : BitVec 16) (src : Reg) : Statement (.atomicXor64 base off src) := by
  simp [Statement, Instr.wide, Instr.fields, wideOpcode, Fields.legacy, Fields.cls, Fields.mode,
    Fields.atomic, Fields.size, memOpcodeOf, decodeBasic, decodeStx, decodeAtomic64]

theorem atomicFetchAdd32 (base : Reg) (off : BitVec 16) (src : Reg) : Statement (.atomicFetchAdd32 base off src) := by
  simp [Statement, Instr.wide, Instr.fields, wideOpcode, Fields.legacy, Fields.cls, Fields.mode,
    Fields.atomic, Fields.size, memOpcodeOf, decodeBasic, decodeStx, decodeAtomic32]

theorem atomicFetchAdd64 (base : Reg) (off : BitVec 16) (src : Reg) : Statement (.atomicFetchAdd64 base off src) := by
  simp [Statement, Instr.wide, Instr.fields, wideOpcode, Fields.legacy, Fields.cls, Fields.mode,
    Fields.atomic, Fields.size, memOpcodeOf, decodeBasic, decodeStx, decodeAtomic64]

theorem atomicFetchOr32 (base : Reg) (off : BitVec 16) (src : Reg) : Statement (.atomicFetchOr32 base off src) := by
  simp [Statement, Instr.wide, Instr.fields, wideOpcode, Fields.legacy, Fields.cls, Fields.mode,
    Fields.atomic, Fields.size, memOpcodeOf, decodeBasic, decodeStx, decodeAtomic32]

theorem atomicFetchOr64 (base : Reg) (off : BitVec 16) (src : Reg) : Statement (.atomicFetchOr64 base off src) := by
  simp [Statement, Instr.wide, Instr.fields, wideOpcode, Fields.legacy, Fields.cls, Fields.mode,
    Fields.atomic, Fields.size, memOpcodeOf, decodeBasic, decodeStx, decodeAtomic64]

theorem atomicFetchAnd32 (base : Reg) (off : BitVec 16) (src : Reg) : Statement (.atomicFetchAnd32 base off src) := by
  simp [Statement, Instr.wide, Instr.fields, wideOpcode, Fields.legacy, Fields.cls, Fields.mode,
    Fields.atomic, Fields.size, memOpcodeOf, decodeBasic, decodeStx, decodeAtomic32]

theorem atomicFetchAnd64 (base : Reg) (off : BitVec 16) (src : Reg) : Statement (.atomicFetchAnd64 base off src) := by
  simp [Statement, Instr.wide, Instr.fields, wideOpcode, Fields.legacy, Fields.cls, Fields.mode,
    Fields.atomic, Fields.size, memOpcodeOf, decodeBasic, decodeStx, decodeAtomic64]

theorem atomicFetchXor32 (base : Reg) (off : BitVec 16) (src : Reg) : Statement (.atomicFetchXor32 base off src) := by
  simp [Statement, Instr.wide, Instr.fields, wideOpcode, Fields.legacy, Fields.cls, Fields.mode,
    Fields.atomic, Fields.size, memOpcodeOf, decodeBasic, decodeStx, decodeAtomic32]

theorem atomicFetchXor64 (base : Reg) (off : BitVec 16) (src : Reg) : Statement (.atomicFetchXor64 base off src) := by
  simp [Statement, Instr.wide, Instr.fields, wideOpcode, Fields.legacy, Fields.cls, Fields.mode,
    Fields.atomic, Fields.size, memOpcodeOf, decodeBasic, decodeStx, decodeAtomic64]

theorem atomicXchg32 (base : Reg) (off : BitVec 16) (src : Reg) : Statement (.atomicXchg32 base off src) := by
  simp [Statement, Instr.wide, Instr.fields, wideOpcode, Fields.legacy, Fields.cls, Fields.mode,
    Fields.atomic, Fields.size, memOpcodeOf, decodeBasic, decodeStx, decodeAtomic32]

theorem atomicXchg64 (base : Reg) (off : BitVec 16) (src : Reg) : Statement (.atomicXchg64 base off src) := by
  simp [Statement, Instr.wide, Instr.fields, wideOpcode, Fields.legacy, Fields.cls, Fields.mode,
    Fields.atomic, Fields.size, memOpcodeOf, decodeBasic, decodeStx, decodeAtomic64]

theorem atomicCmpxchg32 (base : Reg) (off : BitVec 16) (src : Reg) : Statement (.atomicCmpxchg32 base off src) := by
  simp [Statement, Instr.wide, Instr.fields, wideOpcode, Fields.legacy, Fields.cls, Fields.mode,
    Fields.atomic, Fields.size, memOpcodeOf, decodeBasic, decodeStx, decodeAtomic32]

theorem atomicCmpxchg64 (base : Reg) (off : BitVec 16) (src : Reg) : Statement (.atomicCmpxchg64 base off src) := by
  simp [Statement, Instr.wide, Instr.fields, wideOpcode, Fields.legacy, Fields.cls, Fields.mode,
    Fields.atomic, Fields.size, memOpcodeOf, decodeBasic, decodeStx, decodeAtomic64]

theorem lddw (dst : Reg) (imm : BitVec 32) (next : BitVec 32) : Statement (.lddw dst imm next) := by
  simp [Statement, Instr.wide, Instr.fields, wideOpcode, Instr.nextImm, memOpcodeOf, decodeWide]

theorem ldMapFd (dst : Reg) (imm : BitVec 32) : Statement (.ldMapFd dst imm) := by
  simp [Statement, Instr.wide, Instr.fields, wideOpcode, Instr.nextImm, memOpcodeOf, decodeWide]

theorem ldMapValFd (dst : Reg) (imm : BitVec 32) (next : BitVec 32) : Statement (.ldMapValFd dst imm next) := by
  simp [Statement, Instr.wide, Instr.fields, wideOpcode, Instr.nextImm, memOpcodeOf, decodeWide]

theorem ldVarAddr (dst : Reg) (imm : BitVec 32) : Statement (.ldVarAddr dst imm) := by
  simp [Statement, Instr.wide, Instr.fields, wideOpcode, Instr.nextImm, memOpcodeOf, decodeWide]

theorem ldCodeAddr (dst : Reg) (imm : BitVec 32) : Statement (.ldCodeAddr dst imm) := by
  simp [Statement, Instr.wide, Instr.fields, wideOpcode, Instr.nextImm, memOpcodeOf, decodeWide]

theorem ldMapIdx (dst : Reg) (imm : BitVec 32) : Statement (.ldMapIdx dst imm) := by
  simp [Statement, Instr.wide, Instr.fields, wideOpcode, Instr.nextImm, memOpcodeOf, decodeWide]

theorem ldMapValIdx (dst : Reg) (imm : BitVec 32) (next : BitVec 32) : Statement (.ldMapValIdx dst imm next) := by
  simp [Statement, Instr.wide, Instr.fields, wideOpcode, Instr.nextImm, memOpcodeOf, decodeWide]

end Sys2Proof.Laws.EncodedFields
end

