-- ==== Sys2Proof/Laws/Shape.lean ====
section
/-! SUPPORT. The shape of each instruction: which shared operation its meaning is, family by family. A
proof over all instructions of a family goes through these, not through 114 cases. -/

namespace Sys2Proof.Machine

/-- An arithmetic instruction is one of the arithmetic operations. -/
theorem exec_arithmetic_shape {i : Instr} (s : State) (hf : i.family = .arithmetic) :
    (∃ f dst src, exec i s = alu64 f dst src s) ∨
    (∃ f dst src, exec i s = alu32 f dst src s) ∨
    (∃ f dst, exec i s = aluUnary f dst s) ∨
    (∃ f dst src, exec i s = moveExtended f dst src s) ∨
    (∃ dst src, exec i s =
      orFault (source64 s src) fun v => .next ((s.writeReg dst v).advance 1)) ∨
    (∃ dst src, exec i s =
      orFault (source32 s src) fun v => .next ((s.writeReg32 dst v).advance 1)) := by
  cases i with
  | add64 dst src | sub64 dst src | mul64 dst src | div64 dst src | sdiv64 dst src
  | or64 dst src | and64 dst src | lsh64 dst src | rsh64 dst src | mod64 dst src
  | smod64 dst src | xor64 dst src | arsh64 dst src =>
    exact .inl <| ⟨_, _, _, rfl⟩
  | add32 dst src | sub32 dst src | mul32 dst src | div32 dst src | sdiv32 dst src
  | or32 dst src | and32 dst src | lsh32 dst src | rsh32 dst src | mod32 dst src
  | smod32 dst src | xor32 dst src | arsh32 dst src =>
    exact .inr <| .inl <| ⟨_, _, _, rfl⟩
  | neg64 dst | neg32 dst | le16 dst | le32 dst | le64 dst | be16 dst | be32 dst | be64 dst
  | bswap16 dst | bswap32 dst | bswap64 dst =>
    exact .inr <| .inr <| .inl <| ⟨_, _, rfl⟩
  | movsx8_64 dst src | movsx16_64 dst src | movsx32_64 dst src | movsx8_32 dst src
  | movsx16_32 dst src =>
    exact .inr <| .inr <| .inr <| .inl <| ⟨_, _, _, rfl⟩
  | mov64 dst src =>
    exact .inr <| .inr <| .inr <| .inr <| .inl <| ⟨_, _, rfl⟩
  | mov32 dst src =>
    exact .inr <| .inr <| .inr <| .inr <| .inr <| ⟨_, _, rfl⟩
  | _ => cases hf

/-- A jump is unconditional or one of the two conditional forms. -/
theorem exec_jump_shape {i : Instr} (s : State) (hf : i.family = .jump) :
    (∃ d, exec i s = jumpBy s d) ∨
    (∃ c dst src off, exec i s = jump64 c dst src off s) ∨
    (∃ c dst src off, exec i s = jump32 c dst src off s) := by
  cases i with
  | ja off | ja32 imm =>
    exact .inl <| ⟨_, rfl⟩
  | jeq64 dst src off | jgt64 dst src off | jge64 dst src off | jset64 dst src off
  | jne64 dst src off | jsgt64 dst src off | jsge64 dst src off | jlt64 dst src off
  | jle64 dst src off | jslt64 dst src off | jsle64 dst src off =>
    exact .inr <| .inl <| ⟨_, _, _, _, rfl⟩
  | jeq32 dst src off | jgt32 dst src off | jge32 dst src off | jset32 dst src off
  | jne32 dst src off | jsgt32 dst src off | jsge32 dst src off | jlt32 dst src off
  | jle32 dst src off | jslt32 dst src off | jsle32 dst src off =>
    exact .inr <| .inr <| ⟨_, _, _, _, rfl⟩
  | _ => cases hf

/-- A load is `load` at a width and an extension. -/
theorem exec_load_shape {i : Instr} (s : State) (hf : i.family = .load) :
    ∃ w ext dst base off, exec i s = load w ext dst base off s := by
  cases i with
  | ldxw dst base off | ldxh dst base off | ldxb dst base off | ldxdw dst base off
  | ldxsw dst base off | ldxsh dst base off | ldxsb dst base off =>
    exact ⟨_, _, _, _, _, rfl⟩
  | _ => cases hf

/-- A store is `storeImm` or `storeReg` at a width. -/
theorem exec_store_shape {i : Instr} (s : State) (hf : i.family = .store) :
    (∃ w base off imm, exec i s = storeImm w base off imm s) ∨
    (∃ w base off src, exec i s = storeReg w base off src s) := by
  cases i with
  | stw base off imm | sth base off imm | stb base off imm | stdw base off imm =>
    exact .inl <| ⟨_, _, _, _, rfl⟩
  | stxw base off src | stxh base off src | stxb base off src | stxdw base off src =>
    exact .inr <| ⟨_, _, _, _, rfl⟩
  | _ => cases hf

/-- An atomic other than CMPXCHG is `atomicPlain` or `atomicFetch` at a width. -/
theorem exec_atomic_shape {i : Instr} (s : State) (hf : i.family = .atomic) :
    (∃ w f base off src, exec i s = atomicPlain w f base off src s) ∨
    (∃ w f base off src, exec i s = atomicFetch w f base off src s) := by
  cases i with
  | atomicAdd32 base off src | atomicOr32 base off src | atomicAnd32 base off src
  | atomicXor32 base off src =>
    exact .inl <| ⟨32, _, base, off, src, rfl⟩
  | atomicAdd64 base off src | atomicOr64 base off src | atomicAnd64 base off src
  | atomicXor64 base off src =>
    exact .inl <| ⟨64, _, base, off, src, rfl⟩
  | atomicXchg32 base off src =>
    exact .inr <| ⟨32, fun _ v => v, base, off, src, rfl⟩
  | atomicFetchAdd32 base off src | atomicFetchOr32 base off src | atomicFetchAnd32 base off src
  | atomicFetchXor32 base off src =>
    exact .inr <| ⟨32, _, base, off, src, rfl⟩
  | atomicXchg64 base off src =>
    exact .inr <| ⟨64, fun _ v => v, base, off, src, rfl⟩
  | atomicFetchAdd64 base off src | atomicFetchOr64 base off src | atomicFetchAnd64 base off src
  | atomicFetchXor64 base off src =>
    exact .inr <| ⟨64, _, base, off, src, rfl⟩
  | _ => cases hf

/-- CMPXCHG is `atomicCompare` at a width. -/
theorem exec_compareExchange_shape {i : Instr} (s : State) (hf : i.family = .compareExchange) :
    ∃ w base off src, exec i s = atomicCompare w base off src s := by
  cases i with
  | atomicCmpxchg32 base off src =>
    exact ⟨32, base, off, src, rfl⟩
  | atomicCmpxchg64 base off src =>
    exact ⟨64, base, off, src, rfl⟩
  | _ => cases hf

/-- A 64-bit immediate writes a value, or what a platform function gives. -/
theorem exec_imm64_shape {i : Instr} (s : State) (hf : i.family = .imm64) :
    (∃ dst v, exec i s = .next ((s.writeReg dst v).advance 2)) ∨
    (∃ dst v what, exec i s = loadPlatform dst v what s) := by
  cases i with
  | lddw dst imm next =>
    exact .inl <| ⟨_, _, rfl⟩
  | ldMapFd dst imm | ldMapValFd dst imm next | ldVarAddr dst imm | ldCodeAddr dst imm
  | ldMapIdx dst imm | ldMapValIdx dst imm next =>
    exact .inr <| ⟨_, _, _, rfl⟩
  | _ => cases hf

/-- A helper call is a lookup in the table of its kind, and then the helper. -/
theorem exec_helperCall_shape {i : Instr} (s : State) (hf : i.family = .helperCall) :
    (∃ imm, exec i s = match findHelper s.params.helpers imm with
      | none => .fault (.unknownHelper s.pc imm)
      | some h => runHelper h s) ∨
    (∃ imm, exec i s = match findHelper s.params.helpersBtf imm with
      | none => .fault (.unsupported s.pc .callByBtfId)
      | some h => runHelper h s) := by
  cases i with
  | callHelper imm =>
    exact .inl <| ⟨_, rfl⟩
  | callBtf imm =>
    exact .inr <| ⟨_, rfl⟩
  | _ => cases hf

end Sys2Proof.Machine
end

