-- ==== Sys2Proof/Laws/Spells.lean ====
section
/-! SUPPORT. The bytes a value is spelled by (20_memory.md R53): a store leaves them, a load reads the
value they spell, and no two values of a width are spelled by the same bytes. -/

namespace Sys2Proof.Machine

/-- Byte `k` of a value, as `leBytes` computes it. -/
theorem ofNat_byte_eq_extract {w : Nat} (v : BitVec w) (k : Nat) :
    BitVec.ofNat 8 (v.toNat / 256 ^ k) = v.extractLsb' (8 * k) 8 := by
  apply BitVec.eq_of_toNat_eq
  rw [BitVec.toNat_ofNat, BitVec.extractLsb'_toNat, Nat.shiftRight_eq_div_pow, Nat.pow_mul]

/-- The place of byte `k` among the `n` bytes from `a` on. -/
theorem byteAddress_eq_add {e : Endian} {a n k : Nat} (hk : k < n) :
    byteAddress e a n k = a + byteAddress e 0 n k ∧ byteAddress e 0 n k < n := by
  cases e <;> simp [byteAddress] <;> omega

/-- Byte `k` of a value stands at its place in the host's order. -/
theorem unspell_at_byteAddress {w : Nat} (e : Endian) (v : BitVec w) {n k : Nat} (hk : k < n)
    (h : byteAddress e 0 n k < (unspell e n v.toNat).length) :
    (unspell e n v.toNat)[byteAddress e 0 n k] = v.extractLsb' (8 * k) 8 := by
  cases e with
  | le =>
    simp only [byteAddress, unspell, leBytes_getElem, Nat.zero_add]
    exact ofNat_byte_eq_extract v k
  | be =>
    simp only [byteAddress, unspell, List.getElem_reverse, leBytes_getElem, leBytes_length]
    rw [show n - 1 - (0 + n - 1 - k) = k by omega]
    exact ofNat_byte_eq_extract v k

/-- After a store the bytes spell the value stored. -/
theorem spells_storeValue (s : State) (a : Nat) {w : Nat} (v : BitVec w) :
    Spells (s.storeValue a v) a v := by
  intro k hk
  show (s.storeValue a v).byteAt (byteAddress s.params.hostEndian a (w / 8) k) = _
  obtain ⟨h1, h2⟩ := byteAddress_eq_add (e := s.params.hostEndian) (a := a) hk
  rw [h1, State.byteAt_storeValue_inside s a v _ h2]
  exact unspell_at_byteAddress _ _ hk _

/-- The bytes that are there, in the host's order, are those of the value read. -/
theorem unspell_loadValue (s : State) (a : Nat) {w : Nat} (hw : w / 8 * 8 = w) :
    unspell s.params.hostEndian (w / 8) (s.loadValue a w).toNat = s.bytesAt a (w / 8) := by
  have h256 : (256 : Nat) ^ (w / 8) = 2 ^ w := by
    rw [show (256 : Nat) = 2 ^ 8 by norm_num, ← Nat.pow_mul, Nat.mul_comm, hw]
  unfold State.loadValue
  rw [BitVec.toNat_ofNat, ← h256]
  have hlen := State.bytesAt_length s a (w / 8)
  generalize s.bytesAt a (w / 8) = bs at hlen ⊢
  cases s.params.hostEndian with
  | le =>
    simp only [spell, unspell]
    have h := leValue_lt bs
    rw [hlen] at h
    rw [Nat.mod_eq_of_lt h, ← hlen, leBytes_leValue]
  | be =>
    simp only [spell, unspell]
    have h := leValue_lt bs.reverse
    rw [List.length_reverse, hlen] at h
    have h' := leBytes_leValue bs.reverse
    rw [List.length_reverse, hlen] at h'
    rw [Nat.mod_eq_of_lt h, h', List.reverse_reverse]

/-- The bytes that are there spell the value read. -/
theorem spells_loadValue (s : State) (a : Nat) {w : Nat} (hw : w / 8 * 8 = w) :
    Spells s a (s.loadValue a w) := by
  intro k hk
  obtain ⟨h1, h2⟩ := byteAddress_eq_add (e := s.params.hostEndian) (a := a) hk
  have h := unspell_at_byteAddress s.params.hostEndian (s.loadValue a w) hk (by simpa using h2)
  rw [← h, h1]
  simp only [unspell_loadValue s a hw]
  rw [State.bytesAt_getElem]

/-- A value is its bytes. -/
theorem eq_of_extract_bytes {w : Nat} (hw : w / 8 * 8 = w) {u v : BitVec w}
    (h : ∀ k, k < w / 8 → u.extractLsb' (8 * k) 8 = v.extractLsb' (8 * k) 8) : u = v := by
  apply BitVec.eq_of_getLsbD_eq
  intro i hi
  have h1 := congrArg (fun b : BitVec 8 => b.getLsbD (i % 8)) (h (i / 8) (by omega))
  simpa only [BitVec.getLsbD_extractLsb', show i % 8 < 8 by omega, decide_true, Bool.true_and,
    show 8 * (i / 8) + i % 8 = i by omega] using h1

/-- The bytes spell exactly one value of a width: the one a load reads. -/
theorem spells_iff_eq_loadValue (s : State) (a : Nat) {w : Nat} (hw : w / 8 * 8 = w)
    (v : BitVec w) : Spells s a v ↔ v = s.loadValue a w := by
  constructor
  · intro h
    apply eq_of_extract_bytes hw
    intro k hk
    rw [← h k hk, ← spells_loadValue s a hw k hk]
  · rintro rfl
    exact spells_loadValue s a hw

end Sys2Proof.Machine
end

