-- ==== Sys2Proof/Tests/Slice0.lean ====
section
/-! SUPPORT. The tests of the model: what WellFormed refuses, one word of every row of the opcode table
decoded, one step of every instruction with the spec's own vectors, and, for every obligation that has
hypotheses, a concrete state and operands that meet them. -/

set_option Elab.async false

namespace Sys2Proof.Machine

/-! ### States and views for the tests -/

/-- `mov64 r0, 0`, the filler of a program. -/
def filler : Slot := ⟨0xb7, 0x00, 0x00, 0x00, 0x00, 0x00, 0x00, 0x00⟩

/-- The registers of the vectors: those listed, R10 = 0x10000, no value elsewhere
(95_test_vectors.md). -/
def vectorRegs (rs : List (Reg × Word)) : Vector RegContent 11 :=
  rs.foldl (fun v r => v.set r.1 (.value r.2))
    (#v[.noValue, .noValue, .noValue, .noValue, .noValue, .noValue, .noValue, .noValue, .noValue,
      .noValue, .value 0x10000])

/-- MEMMAP of the vectors: the stack ranges, `[0x1000, 0x1100)`, and `[0x3000, 0x3100)` read-only
(96_test_vectors_memory.md). -/
def vectorMap : MemMap :=
  ⟨[⟨0xf000, 0x1000⟩, ⟨0x1000, 0x100⟩, ⟨0x3000, 0x100⟩], [⟨0xf000, 0x1000⟩, ⟨0x1000, 0x100⟩]⟩

/-- The start of a vector: `slots` at `pc` in a program of 40 slots. -/
def vector (pc : Nat) (slots : List Slot) (rs : List (Reg × Word)) (mem : Memory) : State :=
  { State.reset with
    pc := pc
    program := List.replicate pc filler ++ slots ++ List.replicate (40 - pc - slots.length) filler
    regs := vectorRegs rs
    mem := mem
    memMap := vectorMap }

/-- The same under the bytewise alignment policy. -/
def bytewise (s : State) : State :=
  { s with params := { s.params with alignPolicy := .bytewise } }

/-- The state the outcome goes on with. -/
def nextState : Result → Option State
  | .next t => some t
  | .fault _ | .refused _ => none

/-- What a register holds and where `pc` is, where the outcome goes on. -/
def result (r : Reg) (o : Result) : Option (RegContent × Nat) :=
  (nextState o).map fun t => (t.reg r, t.pc)

/-- Where `pc` is, where the outcome goes on. -/
def slotAfter (o : Result) : Option Nat := (nextState o).map fun t => t.pc

/-- The bytes written so far, where the outcome goes on. -/
def memory (o : Result) : Option Memory := (nextState o).map fun t => t.mem

/-- The status, where the outcome goes on. -/
def statusAfter (o : Result) : Option RunStatus := (nextState o).map fun t => t.status

/-- The fault, where the outcome is one. -/
def faultOf : Result → Option Fault
  | .fault f => some f
  | .next _ | .refused _ => none

/-- An outcome with a next state goes on. -/
theorem next_of_isSome {o : Result} (h : (nextState o).isSome = true) : ∃ t, o = .next t := by
  cases o with
  | next t => exact ⟨t, rfl⟩
  | fault f => cases h
  | refused r => cases h

/-- An outcome with that fault is that fault. -/
theorem fault_of_faultOf {o : Result} {f : Fault} (h : faultOf o = some f) : o = .fault f := by
  cases o with
  | next t => cases h
  | fault g => cases h; rfl
  | refused r => cases h

/-- The decoder reads each instruction from its slots. -/
def allDecode (rows : List (Slot × Option Slot × Instr)) : Bool :=
  rows.all fun r =>
    match decode .le Params.default.groups r.1 r.2.1 with
    | .ok i => decide (i = r.2.2)
    | .error _ => false

/-- The decoder finds an illegal encoding in each slot. -/
def allIllegal (e : Endian) (groups : List Group) (rows : List (Slot × Option Slot)) : Bool :=
  rows.all fun r =>
    match decode e groups r.1 r.2 with
    | .error .illegalEncoding => true
    | .error .legacyPacketAccess | .ok _ => false

/-! ### WellFormed: R10 is not to be written (10_state.md R25) -/

theorem test_wellFormed_refuses_dst_r10 : (Instr.add64 10 (.imm 1)).wellFormed = false := by decide

theorem test_wellFormed_refuses_load_to_r10 : (Instr.ldxdw 10 1 0).wellFormed = false := by decide

theorem test_wellFormed_refuses_lddw_to_r10 : (Instr.lddw 10 1 0).wellFormed = false := by decide

theorem test_wellFormed_refuses_fetch_into_r10 :
    (Instr.atomicFetchAdd64 1 0 10).wellFormed = false := by decide

theorem test_wellFormed_allows_r10_read :
    (Instr.mov64 1 (.reg 10)).wellFormed = true ∧ (Instr.stxdw 10 0 10).wellFormed = true ∧
    (Instr.atomicCmpxchg64 10 0 10).wellFormed = true := by decide

/-! ### Words the decoder refuses (30_encoding.md R98) -/

/-- R10 to be written, register numbers 11 and 15, a field of R100 that is not zero, `imm` of a swap
or an atomic outside its table, code 0xe, a size of no atomic, CALL with `src_reg` 3. -/
theorem test_decode_refuses : allIllegal .le Params.default.groups [
    (⟨0xb7, 0x0a, 0x00, 0x00, 0x00, 0x00, 0x00, 0x00⟩, none),
    (⟨0xdb, 0xa1, 0x00, 0x00, 0xe1, 0x00, 0x00, 0x00⟩, none),
    (⟨0xb7, 0x0b, 0x00, 0x00, 0x00, 0x00, 0x00, 0x00⟩, none),
    (⟨0xbf, 0xf1, 0x00, 0x00, 0x00, 0x00, 0x00, 0x00⟩, none),
    (⟨0x07, 0x11, 0x00, 0x00, 0x01, 0x00, 0x00, 0x00⟩, none),
    (⟨0x0f, 0x21, 0x00, 0x00, 0x01, 0x00, 0x00, 0x00⟩, none),
    (⟨0x07, 0x01, 0x01, 0x00, 0x01, 0x00, 0x00, 0x00⟩, none),
    (⟨0x87, 0x01, 0x00, 0x00, 0x01, 0x00, 0x00, 0x00⟩, none),
    (⟨0xbf, 0x21, 0x18, 0x00, 0x00, 0x00, 0x00, 0x00⟩, none),
    (⟨0xdc, 0x01, 0x00, 0x00, 0x18, 0x00, 0x00, 0x00⟩, none),
    (⟨0xdf, 0x01, 0x00, 0x00, 0x10, 0x00, 0x00, 0x00⟩, none),
    (⟨0xdb, 0x1a, 0xf8, 0xff, 0xe0, 0x00, 0x00, 0x00⟩, none),
    (⟨0xdb, 0x1a, 0xf8, 0xff, 0x00, 0x01, 0x00, 0x00⟩, none),
    (⟨0xcb, 0x1a, 0xfe, 0xff, 0x00, 0x00, 0x00, 0x00⟩, none),
    (⟨0xe7, 0x01, 0x00, 0x00, 0x00, 0x00, 0x00, 0x00⟩, none),
    (⟨0x85, 0x30, 0x00, 0x00, 0x01, 0x00, 0x00, 0x00⟩, none),
    (⟨0x9d, 0x00, 0x00, 0x00, 0x00, 0x00, 0x00, 0x00⟩, none),
    (⟨0x00, 0x00, 0x00, 0x00, 0x00, 0x00, 0x00, 0x00⟩, none),
    (⟨0x18, 0x01, 0x00, 0x00, 0x05, 0x00, 0x00, 0x00⟩, none),
    (⟨0x18, 0x01, 0x00, 0x00, 0x05, 0x00, 0x00, 0x00⟩,
      some ⟨0x01, 0x00, 0x00, 0x00, 0x00, 0x00, 0x00, 0x00⟩),
    (⟨0x18, 0x11, 0x00, 0x00, 0x03, 0x00, 0x00, 0x00⟩,
      some ⟨0x00, 0x00, 0x00, 0x00, 0x01, 0x00, 0x00, 0x00⟩)] = true := by
  decide +kernel

/-- Without a group its instructions are illegal; the others are not. -/
theorem test_decode_groups : allIllegal .le [.base32, .base64, .atomic32] [
    (⟨0xdb, 0x1a, 0xf8, 0xff, 0x00, 0x00, 0x00, 0x00⟩, none)] = true ∧
    allIllegal .le [.base32, .atomic32, .atomic64] [
    (⟨0xdc, 0x01, 0x00, 0x00, 0x40, 0x00, 0x00, 0x00⟩, none)] = true ∧
    allIllegal .le [] [(⟨0x07, 0x01, 0x00, 0x00, 0x01, 0x00, 0x00, 0x00⟩, none)] = false := by
  decide +kernel

/-- V1 to V8 in their two layouts (95_test_vectors.md section 2): the bytes are those of the encoder,
the word is the canonical one. -/
theorem test_encode_layouts :
    encode .le (.add64 1 (.reg 2)) = [⟨0x0f, 0x21, 0x00, 0x00, 0x00, 0x00, 0x00, 0x00⟩] ∧
    encode .be (.add64 1 (.reg 2)) = [⟨0x0f, 0x12, 0x00, 0x00, 0x00, 0x00, 0x00, 0x00⟩] ∧
    encode .be (.stxw 10 0xfffc 1) = [⟨0x63, 0xa1, 0xff, 0xfc, 0x00, 0x00, 0x00, 0x00⟩] ∧
    encode .be (.mov64 0 (.imm 0x12345678)) =
      [⟨0xb7, 0x00, 0x00, 0x00, 0x12, 0x34, 0x56, 0x78⟩] ∧
    encode .be (.jne64 1 (.imm 0) 0xfffd) = [⟨0x55, 0x10, 0xff, 0xfd, 0x00, 0x00, 0x00, 0x00⟩] ∧
    encode .be (.atomicCmpxchg64 10 0xfff8 1) =
      [⟨0xdb, 0xa1, 0xff, 0xf8, 0x00, 0x00, 0x00, 0xf1⟩] ∧
    encode .be (.lddw 1 0x55667788 0x11223344) =
      [⟨0x18, 0x10, 0x00, 0x00, 0x55, 0x66, 0x77, 0x88⟩,
        ⟨0x00, 0x00, 0x00, 0x00, 0x11, 0x22, 0x33, 0x44⟩] ∧
    encode .be (.be16 1) = [⟨0xdc, 0x10, 0x00, 0x00, 0x00, 0x00, 0x00, 0x10⟩] ∧
    encode .be (.callLocal 2) = [⟨0x85, 0x01, 0x00, 0x00, 0x00, 0x00, 0x00, 0x02⟩] ∧
    (Instr.atomicCmpxchg64 10 0xfff8 1).fields.word = 0x000000f1fff81adb := by
  decide +kernel

/-- A row's word, numbered as the opcode table numbers it, is decoded, and is what the next step
runs. -/
theorem test_table_words :
    decodeTableWord 64 0x000000f1fff81adb = some (.atomicCmpxchg64 10 0xfff8 1) ∧
    decodeTableWord 128 0x11223344000000005566778800000118 =
      some (.lddw 1 0x55667788 0x11223344) ∧
    decodeTableWord 64 0x0a07 = none ∧
    result 0 (step (State.reset.withFetchWord 64 0x12345678000000b7)) =
      some (.value 0x12345678, 1) ∧
    result 1 (step (State.reset.withFetchWord 128 0x11223344000000005566778800000118)) =
      some (.value 0x1122334455667788, 2) := by
  decide +kernel

/-! ### Decoding: a word of every row of the opcode table

Written from the row's opcode byte and fields: `dst_reg` 1 (base 2 of a store or an atomic), `src_reg`
3, `offset` 0xfffe, `imm` 0x8765fedc, `next_imm` 0x44332211 wherever the row leaves the field free; a
`src_reg` that the row ignores is 15. -/

theorem test_decode_add_sub_mul : allDecode [
    (⟨0x07, 0x01, 0x00, 0x00, 0xdc, 0xfe, 0x65, 0x87⟩, none, .add64 1 (.imm 0x8765fedc)),
    (⟨0x0f, 0x31, 0x00, 0x00, 0x00, 0x00, 0x00, 0x00⟩, none, .add64 1 (.reg 3)),
    (⟨0x04, 0x01, 0x00, 0x00, 0xdc, 0xfe, 0x65, 0x87⟩, none, .add32 1 (.imm 0x8765fedc)),
    (⟨0x0c, 0x31, 0x00, 0x00, 0x00, 0x00, 0x00, 0x00⟩, none, .add32 1 (.reg 3)),
    (⟨0x17, 0x01, 0x00, 0x00, 0xdc, 0xfe, 0x65, 0x87⟩, none, .sub64 1 (.imm 0x8765fedc)),
    (⟨0x1f, 0x31, 0x00, 0x00, 0x00, 0x00, 0x00, 0x00⟩, none, .sub64 1 (.reg 3)),
    (⟨0x14, 0x01, 0x00, 0x00, 0xdc, 0xfe, 0x65, 0x87⟩, none, .sub32 1 (.imm 0x8765fedc)),
    (⟨0x1c, 0x31, 0x00, 0x00, 0x00, 0x00, 0x00, 0x00⟩, none, .sub32 1 (.reg 3)),
    (⟨0x27, 0x01, 0x00, 0x00, 0xdc, 0xfe, 0x65, 0x87⟩, none, .mul64 1 (.imm 0x8765fedc)),
    (⟨0x2f, 0x31, 0x00, 0x00, 0x00, 0x00, 0x00, 0x00⟩, none, .mul64 1 (.reg 3)),
    (⟨0x24, 0x01, 0x00, 0x00, 0xdc, 0xfe, 0x65, 0x87⟩, none, .mul32 1 (.imm 0x8765fedc)),
    (⟨0x2c, 0x31, 0x00, 0x00, 0x00, 0x00, 0x00, 0x00⟩, none, .mul32 1 (.reg 3))] = true := by
  decide +kernel

theorem test_decode_div_mod : allDecode [
    (⟨0x37, 0x01, 0x00, 0x00, 0xdc, 0xfe, 0x65, 0x87⟩, none, .div64 1 (.imm 0x8765fedc)),
    (⟨0x3f, 0x31, 0x00, 0x00, 0x00, 0x00, 0x00, 0x00⟩, none, .div64 1 (.reg 3)),
    (⟨0x34, 0x01, 0x00, 0x00, 0xdc, 0xfe, 0x65, 0x87⟩, none, .div32 1 (.imm 0x8765fedc)),
    (⟨0x3c, 0x31, 0x00, 0x00, 0x00, 0x00, 0x00, 0x00⟩, none, .div32 1 (.reg 3)),
    (⟨0x37, 0x01, 0x01, 0x00, 0xdc, 0xfe, 0x65, 0x87⟩, none, .sdiv64 1 (.imm 0x8765fedc)),
    (⟨0x3f, 0x31, 0x01, 0x00, 0x00, 0x00, 0x00, 0x00⟩, none, .sdiv64 1 (.reg 3)),
    (⟨0x34, 0x01, 0x01, 0x00, 0xdc, 0xfe, 0x65, 0x87⟩, none, .sdiv32 1 (.imm 0x8765fedc)),
    (⟨0x3c, 0x31, 0x01, 0x00, 0x00, 0x00, 0x00, 0x00⟩, none, .sdiv32 1 (.reg 3)),
    (⟨0x97, 0x01, 0x00, 0x00, 0xdc, 0xfe, 0x65, 0x87⟩, none, .mod64 1 (.imm 0x8765fedc)),
    (⟨0x9f, 0x31, 0x00, 0x00, 0x00, 0x00, 0x00, 0x00⟩, none, .mod64 1 (.reg 3)),
    (⟨0x94, 0x01, 0x00, 0x00, 0xdc, 0xfe, 0x65, 0x87⟩, none, .mod32 1 (.imm 0x8765fedc)),
    (⟨0x9c, 0x31, 0x00, 0x00, 0x00, 0x00, 0x00, 0x00⟩, none, .mod32 1 (.reg 3)),
    (⟨0x97, 0x01, 0x01, 0x00, 0xdc, 0xfe, 0x65, 0x87⟩, none, .smod64 1 (.imm 0x8765fedc)),
    (⟨0x9f, 0x31, 0x01, 0x00, 0x00, 0x00, 0x00, 0x00⟩, none, .smod64 1 (.reg 3)),
    (⟨0x94, 0x01, 0x01, 0x00, 0xdc, 0xfe, 0x65, 0x87⟩, none, .smod32 1 (.imm 0x8765fedc)),
    (⟨0x9c, 0x31, 0x01, 0x00, 0x00, 0x00, 0x00, 0x00⟩, none, .smod32 1 (.reg 3))] = true := by
  decide +kernel

theorem test_decode_bitwise_shift : allDecode [
    (⟨0x47, 0x01, 0x00, 0x00, 0xdc, 0xfe, 0x65, 0x87⟩, none, .or64 1 (.imm 0x8765fedc)),
    (⟨0x4f, 0x31, 0x00, 0x00, 0x00, 0x00, 0x00, 0x00⟩, none, .or64 1 (.reg 3)),
    (⟨0x44, 0x01, 0x00, 0x00, 0xdc, 0xfe, 0x65, 0x87⟩, none, .or32 1 (.imm 0x8765fedc)),
    (⟨0x4c, 0x31, 0x00, 0x00, 0x00, 0x00, 0x00, 0x00⟩, none, .or32 1 (.reg 3)),
    (⟨0x57, 0x01, 0x00, 0x00, 0xdc, 0xfe, 0x65, 0x87⟩, none, .and64 1 (.imm 0x8765fedc)),
    (⟨0x5f, 0x31, 0x00, 0x00, 0x00, 0x00, 0x00, 0x00⟩, none, .and64 1 (.reg 3)),
    (⟨0x54, 0x01, 0x00, 0x00, 0xdc, 0xfe, 0x65, 0x87⟩, none, .and32 1 (.imm 0x8765fedc)),
    (⟨0x5c, 0x31, 0x00, 0x00, 0x00, 0x00, 0x00, 0x00⟩, none, .and32 1 (.reg 3)),
    (⟨0xa7, 0x01, 0x00, 0x00, 0xdc, 0xfe, 0x65, 0x87⟩, none, .xor64 1 (.imm 0x8765fedc)),
    (⟨0xaf, 0x31, 0x00, 0x00, 0x00, 0x00, 0x00, 0x00⟩, none, .xor64 1 (.reg 3)),
    (⟨0xa4, 0x01, 0x00, 0x00, 0xdc, 0xfe, 0x65, 0x87⟩, none, .xor32 1 (.imm 0x8765fedc)),
    (⟨0xac, 0x31, 0x00, 0x00, 0x00, 0x00, 0x00, 0x00⟩, none, .xor32 1 (.reg 3)),
    (⟨0x67, 0x01, 0x00, 0x00, 0xdc, 0xfe, 0x65, 0x87⟩, none, .lsh64 1 (.imm 0x8765fedc)),
    (⟨0x6f, 0x31, 0x00, 0x00, 0x00, 0x00, 0x00, 0x00⟩, none, .lsh64 1 (.reg 3)),
    (⟨0x64, 0x01, 0x00, 0x00, 0xdc, 0xfe, 0x65, 0x87⟩, none, .lsh32 1 (.imm 0x8765fedc)),
    (⟨0x6c, 0x31, 0x00, 0x00, 0x00, 0x00, 0x00, 0x00⟩, none, .lsh32 1 (.reg 3)),
    (⟨0x77, 0x01, 0x00, 0x00, 0xdc, 0xfe, 0x65, 0x87⟩, none, .rsh64 1 (.imm 0x8765fedc)),
    (⟨0x7f, 0x31, 0x00, 0x00, 0x00, 0x00, 0x00, 0x00⟩, none, .rsh64 1 (.reg 3)),
    (⟨0x74, 0x01, 0x00, 0x00, 0xdc, 0xfe, 0x65, 0x87⟩, none, .rsh32 1 (.imm 0x8765fedc)),
    (⟨0x7c, 0x31, 0x00, 0x00, 0x00, 0x00, 0x00, 0x00⟩, none, .rsh32 1 (.reg 3)),
    (⟨0xc7, 0x01, 0x00, 0x00, 0xdc, 0xfe, 0x65, 0x87⟩, none, .arsh64 1 (.imm 0x8765fedc)),
    (⟨0xcf, 0x31, 0x00, 0x00, 0x00, 0x00, 0x00, 0x00⟩, none, .arsh64 1 (.reg 3)),
    (⟨0xc4, 0x01, 0x00, 0x00, 0xdc, 0xfe, 0x65, 0x87⟩, none, .arsh32 1 (.imm 0x8765fedc)),
    (⟨0xcc, 0x31, 0x00, 0x00, 0x00, 0x00, 0x00, 0x00⟩, none, .arsh32 1 (.reg 3))] = true := by
  decide +kernel

theorem test_decode_mov_neg : allDecode [
    (⟨0xb7, 0x01, 0x00, 0x00, 0xdc, 0xfe, 0x65, 0x87⟩, none, .mov64 1 (.imm 0x8765fedc)),
    (⟨0xbf, 0x31, 0x00, 0x00, 0x00, 0x00, 0x00, 0x00⟩, none, .mov64 1 (.reg 3)),
    (⟨0xb4, 0x01, 0x00, 0x00, 0xdc, 0xfe, 0x65, 0x87⟩, none, .mov32 1 (.imm 0x8765fedc)),
    (⟨0xbc, 0x31, 0x00, 0x00, 0x00, 0x00, 0x00, 0x00⟩, none, .mov32 1 (.reg 3)),
    (⟨0x87, 0x01, 0x00, 0x00, 0x00, 0x00, 0x00, 0x00⟩, none, .neg64 1),
    (⟨0x84, 0x01, 0x00, 0x00, 0x00, 0x00, 0x00, 0x00⟩, none, .neg32 1),
    (⟨0xbf, 0x31, 0x08, 0x00, 0x00, 0x00, 0x00, 0x00⟩, none, .movsx8_64 1 3),
    (⟨0xbf, 0x31, 0x10, 0x00, 0x00, 0x00, 0x00, 0x00⟩, none, .movsx16_64 1 3),
    (⟨0xbf, 0x31, 0x20, 0x00, 0x00, 0x00, 0x00, 0x00⟩, none, .movsx32_64 1 3),
    (⟨0xbc, 0x31, 0x08, 0x00, 0x00, 0x00, 0x00, 0x00⟩, none, .movsx8_32 1 3),
    (⟨0xbc, 0x31, 0x10, 0x00, 0x00, 0x00, 0x00, 0x00⟩, none, .movsx16_32 1 3)] = true := by
  decide +kernel

theorem test_decode_swap : allDecode [
    (⟨0xd4, 0x01, 0x00, 0x00, 0x10, 0x00, 0x00, 0x00⟩, none, .le16 1),
    (⟨0xd4, 0x01, 0x00, 0x00, 0x20, 0x00, 0x00, 0x00⟩, none, .le32 1),
    (⟨0xd4, 0x01, 0x00, 0x00, 0x40, 0x00, 0x00, 0x00⟩, none, .le64 1),
    (⟨0xdc, 0x01, 0x00, 0x00, 0x10, 0x00, 0x00, 0x00⟩, none, .be16 1),
    (⟨0xdc, 0x01, 0x00, 0x00, 0x20, 0x00, 0x00, 0x00⟩, none, .be32 1),
    (⟨0xdc, 0x01, 0x00, 0x00, 0x40, 0x00, 0x00, 0x00⟩, none, .be64 1),
    (⟨0xd7, 0x01, 0x00, 0x00, 0x10, 0x00, 0x00, 0x00⟩, none, .bswap16 1),
    (⟨0xd7, 0x01, 0x00, 0x00, 0x20, 0x00, 0x00, 0x00⟩, none, .bswap32 1),
    (⟨0xd7, 0x01, 0x00, 0x00, 0x40, 0x00, 0x00, 0x00⟩, none, .bswap64 1)] = true := by
  decide +kernel

theorem test_decode_ja : allDecode [
    (⟨0x05, 0x00, 0xfe, 0xff, 0x00, 0x00, 0x00, 0x00⟩, none, .ja 0xfffe),
    (⟨0x06, 0x00, 0x00, 0x00, 0xdc, 0xfe, 0x65, 0x87⟩, none, .ja32 0x8765fedc)] = true := by
  decide +kernel

theorem test_decode_jeq_jgt_jge_jset : allDecode [
    (⟨0x15, 0xf1, 0xfe, 0xff, 0xdc, 0xfe, 0x65, 0x87⟩, none, .jeq64 1 (.imm 0x8765fedc) 0xfffe),
    (⟨0x1d, 0x31, 0xfe, 0xff, 0x00, 0x00, 0x00, 0x00⟩, none, .jeq64 1 (.reg 3) 0xfffe),
    (⟨0x16, 0xf1, 0xfe, 0xff, 0xdc, 0xfe, 0x65, 0x87⟩, none, .jeq32 1 (.imm 0x8765fedc) 0xfffe),
    (⟨0x1e, 0x31, 0xfe, 0xff, 0x00, 0x00, 0x00, 0x00⟩, none, .jeq32 1 (.reg 3) 0xfffe),
    (⟨0x25, 0xf1, 0xfe, 0xff, 0xdc, 0xfe, 0x65, 0x87⟩, none, .jgt64 1 (.imm 0x8765fedc) 0xfffe),
    (⟨0x2d, 0x31, 0xfe, 0xff, 0x00, 0x00, 0x00, 0x00⟩, none, .jgt64 1 (.reg 3) 0xfffe),
    (⟨0x26, 0xf1, 0xfe, 0xff, 0xdc, 0xfe, 0x65, 0x87⟩, none, .jgt32 1 (.imm 0x8765fedc) 0xfffe),
    (⟨0x2e, 0x31, 0xfe, 0xff, 0x00, 0x00, 0x00, 0x00⟩, none, .jgt32 1 (.reg 3) 0xfffe),
    (⟨0x35, 0xf1, 0xfe, 0xff, 0xdc, 0xfe, 0x65, 0x87⟩, none, .jge64 1 (.imm 0x8765fedc) 0xfffe),
    (⟨0x3d, 0x31, 0xfe, 0xff, 0x00, 0x00, 0x00, 0x00⟩, none, .jge64 1 (.reg 3) 0xfffe),
    (⟨0x36, 0xf1, 0xfe, 0xff, 0xdc, 0xfe, 0x65, 0x87⟩, none, .jge32 1 (.imm 0x8765fedc) 0xfffe),
    (⟨0x3e, 0x31, 0xfe, 0xff, 0x00, 0x00, 0x00, 0x00⟩, none, .jge32 1 (.reg 3) 0xfffe),
    (⟨0x45, 0xf1, 0xfe, 0xff, 0xdc, 0xfe, 0x65, 0x87⟩, none, .jset64 1 (.imm 0x8765fedc) 0xfffe),
    (⟨0x4d, 0x31, 0xfe, 0xff, 0x00, 0x00, 0x00, 0x00⟩, none, .jset64 1 (.reg 3) 0xfffe),
    (⟨0x46, 0xf1, 0xfe, 0xff, 0xdc, 0xfe, 0x65, 0x87⟩, none, .jset32 1 (.imm 0x8765fedc) 0xfffe),
    (⟨0x4e, 0x31, 0xfe, 0xff, 0x00, 0x00, 0x00, 0x00⟩, none, .jset32 1 (.reg 3) 0xfffe)] = true := by
  decide +kernel

theorem test_decode_jne_jsgt_jsge : allDecode [
    (⟨0x55, 0xf1, 0xfe, 0xff, 0xdc, 0xfe, 0x65, 0x87⟩, none, .jne64 1 (.imm 0x8765fedc) 0xfffe),
    (⟨0x5d, 0x31, 0xfe, 0xff, 0x00, 0x00, 0x00, 0x00⟩, none, .jne64 1 (.reg 3) 0xfffe),
    (⟨0x56, 0xf1, 0xfe, 0xff, 0xdc, 0xfe, 0x65, 0x87⟩, none, .jne32 1 (.imm 0x8765fedc) 0xfffe),
    (⟨0x5e, 0x31, 0xfe, 0xff, 0x00, 0x00, 0x00, 0x00⟩, none, .jne32 1 (.reg 3) 0xfffe),
    (⟨0x65, 0xf1, 0xfe, 0xff, 0xdc, 0xfe, 0x65, 0x87⟩, none, .jsgt64 1 (.imm 0x8765fedc) 0xfffe),
    (⟨0x6d, 0x31, 0xfe, 0xff, 0x00, 0x00, 0x00, 0x00⟩, none, .jsgt64 1 (.reg 3) 0xfffe),
    (⟨0x66, 0xf1, 0xfe, 0xff, 0xdc, 0xfe, 0x65, 0x87⟩, none, .jsgt32 1 (.imm 0x8765fedc) 0xfffe),
    (⟨0x6e, 0x31, 0xfe, 0xff, 0x00, 0x00, 0x00, 0x00⟩, none, .jsgt32 1 (.reg 3) 0xfffe),
    (⟨0x75, 0xf1, 0xfe, 0xff, 0xdc, 0xfe, 0x65, 0x87⟩, none, .jsge64 1 (.imm 0x8765fedc) 0xfffe),
    (⟨0x7d, 0x31, 0xfe, 0xff, 0x00, 0x00, 0x00, 0x00⟩, none, .jsge64 1 (.reg 3) 0xfffe),
    (⟨0x76, 0xf1, 0xfe, 0xff, 0xdc, 0xfe, 0x65, 0x87⟩, none, .jsge32 1 (.imm 0x8765fedc) 0xfffe),
    (⟨0x7e, 0x31, 0xfe, 0xff, 0x00, 0x00, 0x00, 0x00⟩, none, .jsge32 1 (.reg 3) 0xfffe)] = true := by
  decide +kernel

theorem test_decode_jlt_jle_jslt_jsle : allDecode [
    (⟨0xa5, 0xf1, 0xfe, 0xff, 0xdc, 0xfe, 0x65, 0x87⟩, none, .jlt64 1 (.imm 0x8765fedc) 0xfffe),
    (⟨0xad, 0x31, 0xfe, 0xff, 0x00, 0x00, 0x00, 0x00⟩, none, .jlt64 1 (.reg 3) 0xfffe),
    (⟨0xa6, 0xf1, 0xfe, 0xff, 0xdc, 0xfe, 0x65, 0x87⟩, none, .jlt32 1 (.imm 0x8765fedc) 0xfffe),
    (⟨0xae, 0x31, 0xfe, 0xff, 0x00, 0x00, 0x00, 0x00⟩, none, .jlt32 1 (.reg 3) 0xfffe),
    (⟨0xb5, 0xf1, 0xfe, 0xff, 0xdc, 0xfe, 0x65, 0x87⟩, none, .jle64 1 (.imm 0x8765fedc) 0xfffe),
    (⟨0xbd, 0x31, 0xfe, 0xff, 0x00, 0x00, 0x00, 0x00⟩, none, .jle64 1 (.reg 3) 0xfffe),
    (⟨0xb6, 0xf1, 0xfe, 0xff, 0xdc, 0xfe, 0x65, 0x87⟩, none, .jle32 1 (.imm 0x8765fedc) 0xfffe),
    (⟨0xbe, 0x31, 0xfe, 0xff, 0x00, 0x00, 0x00, 0x00⟩, none, .jle32 1 (.reg 3) 0xfffe),
    (⟨0xc5, 0xf1, 0xfe, 0xff, 0xdc, 0xfe, 0x65, 0x87⟩, none, .jslt64 1 (.imm 0x8765fedc) 0xfffe),
    (⟨0xcd, 0x31, 0xfe, 0xff, 0x00, 0x00, 0x00, 0x00⟩, none, .jslt64 1 (.reg 3) 0xfffe),
    (⟨0xc6, 0xf1, 0xfe, 0xff, 0xdc, 0xfe, 0x65, 0x87⟩, none, .jslt32 1 (.imm 0x8765fedc) 0xfffe),
    (⟨0xce, 0x31, 0xfe, 0xff, 0x00, 0x00, 0x00, 0x00⟩, none, .jslt32 1 (.reg 3) 0xfffe),
    (⟨0xd5, 0xf1, 0xfe, 0xff, 0xdc, 0xfe, 0x65, 0x87⟩, none, .jsle64 1 (.imm 0x8765fedc) 0xfffe),
    (⟨0xdd, 0x31, 0xfe, 0xff, 0x00, 0x00, 0x00, 0x00⟩, none, .jsle64 1 (.reg 3) 0xfffe),
    (⟨0xd6, 0xf1, 0xfe, 0xff, 0xdc, 0xfe, 0x65, 0x87⟩, none, .jsle32 1 (.imm 0x8765fedc) 0xfffe),
    (⟨0xde, 0x31, 0xfe, 0xff, 0x00, 0x00, 0x00, 0x00⟩, none, .jsle32 1 (.reg 3) 0xfffe)] = true := by
  decide +kernel

theorem test_decode_call_exit : allDecode [
    (⟨0x85, 0x00, 0x00, 0x00, 0xdc, 0xfe, 0x65, 0x87⟩, none, .callHelper 0x8765fedc),
    (⟨0x85, 0x10, 0x00, 0x00, 0xdc, 0xfe, 0x65, 0x87⟩, none, .callLocal 0x8765fedc),
    (⟨0x85, 0x20, 0x00, 0x00, 0xdc, 0xfe, 0x65, 0x87⟩, none, .callBtf 0x8765fedc),
    (⟨0x95, 0x00, 0x00, 0x00, 0x00, 0x00, 0x00, 0x00⟩, none, .exit)] = true := by
  decide +kernel

theorem test_decode_load : allDecode [
    (⟨0x61, 0x31, 0xfe, 0xff, 0x00, 0x00, 0x00, 0x00⟩, none, .ldxw 1 3 0xfffe),
    (⟨0x69, 0x31, 0xfe, 0xff, 0x00, 0x00, 0x00, 0x00⟩, none, .ldxh 1 3 0xfffe),
    (⟨0x71, 0x31, 0xfe, 0xff, 0x00, 0x00, 0x00, 0x00⟩, none, .ldxb 1 3 0xfffe),
    (⟨0x79, 0x31, 0xfe, 0xff, 0x00, 0x00, 0x00, 0x00⟩, none, .ldxdw 1 3 0xfffe),
    (⟨0x81, 0x31, 0xfe, 0xff, 0x00, 0x00, 0x00, 0x00⟩, none, .ldxsw 1 3 0xfffe),
    (⟨0x89, 0x31, 0xfe, 0xff, 0x00, 0x00, 0x00, 0x00⟩, none, .ldxsh 1 3 0xfffe),
    (⟨0x91, 0x31, 0xfe, 0xff, 0x00, 0x00, 0x00, 0x00⟩, none, .ldxsb 1 3 0xfffe)] = true := by
  decide +kernel

theorem test_decode_store : allDecode [
    (⟨0x62, 0x02, 0xfe, 0xff, 0xdc, 0xfe, 0x65, 0x87⟩, none, .stw 2 0xfffe 0x8765fedc),
    (⟨0x6a, 0x02, 0xfe, 0xff, 0xdc, 0xfe, 0x65, 0x87⟩, none, .sth 2 0xfffe 0x8765fedc),
    (⟨0x72, 0x02, 0xfe, 0xff, 0xdc, 0xfe, 0x65, 0x87⟩, none, .stb 2 0xfffe 0x8765fedc),
    (⟨0x7a, 0x02, 0xfe, 0xff, 0xdc, 0xfe, 0x65, 0x87⟩, none, .stdw 2 0xfffe 0x8765fedc),
    (⟨0x63, 0x32, 0xfe, 0xff, 0x00, 0x00, 0x00, 0x00⟩, none, .stxw 2 0xfffe 3),
    (⟨0x6b, 0x32, 0xfe, 0xff, 0x00, 0x00, 0x00, 0x00⟩, none, .stxh 2 0xfffe 3),
    (⟨0x73, 0x32, 0xfe, 0xff, 0x00, 0x00, 0x00, 0x00⟩, none, .stxb 2 0xfffe 3),
    (⟨0x7b, 0x32, 0xfe, 0xff, 0x00, 0x00, 0x00, 0x00⟩, none, .stxdw 2 0xfffe 3)] = true := by
  decide +kernel

theorem test_decode_atomic : allDecode [
    (⟨0xc3, 0x32, 0xfe, 0xff, 0x00, 0x00, 0x00, 0x00⟩, none, .atomicAdd32 2 0xfffe 3),
    (⟨0xdb, 0x32, 0xfe, 0xff, 0x00, 0x00, 0x00, 0x00⟩, none, .atomicAdd64 2 0xfffe 3),
    (⟨0xc3, 0x32, 0xfe, 0xff, 0x40, 0x00, 0x00, 0x00⟩, none, .atomicOr32 2 0xfffe 3),
    (⟨0xdb, 0x32, 0xfe, 0xff, 0x40, 0x00, 0x00, 0x00⟩, none, .atomicOr64 2 0xfffe 3),
    (⟨0xc3, 0x32, 0xfe, 0xff, 0x50, 0x00, 0x00, 0x00⟩, none, .atomicAnd32 2 0xfffe 3),
    (⟨0xdb, 0x32, 0xfe, 0xff, 0x50, 0x00, 0x00, 0x00⟩, none, .atomicAnd64 2 0xfffe 3),
    (⟨0xc3, 0x32, 0xfe, 0xff, 0xa0, 0x00, 0x00, 0x00⟩, none, .atomicXor32 2 0xfffe 3),
    (⟨0xdb, 0x32, 0xfe, 0xff, 0xa0, 0x00, 0x00, 0x00⟩, none, .atomicXor64 2 0xfffe 3)] = true := by
  decide +kernel

theorem test_decode_atomic_fetch : allDecode [
    (⟨0xc3, 0x32, 0xfe, 0xff, 0x01, 0x00, 0x00, 0x00⟩, none, .atomicFetchAdd32 2 0xfffe 3),
    (⟨0xdb, 0x32, 0xfe, 0xff, 0x01, 0x00, 0x00, 0x00⟩, none, .atomicFetchAdd64 2 0xfffe 3),
    (⟨0xc3, 0x32, 0xfe, 0xff, 0x41, 0x00, 0x00, 0x00⟩, none, .atomicFetchOr32 2 0xfffe 3),
    (⟨0xdb, 0x32, 0xfe, 0xff, 0x41, 0x00, 0x00, 0x00⟩, none, .atomicFetchOr64 2 0xfffe 3),
    (⟨0xc3, 0x32, 0xfe, 0xff, 0x51, 0x00, 0x00, 0x00⟩, none, .atomicFetchAnd32 2 0xfffe 3),
    (⟨0xdb, 0x32, 0xfe, 0xff, 0x51, 0x00, 0x00, 0x00⟩, none, .atomicFetchAnd64 2 0xfffe 3),
    (⟨0xc3, 0x32, 0xfe, 0xff, 0xa1, 0x00, 0x00, 0x00⟩, none, .atomicFetchXor32 2 0xfffe 3),
    (⟨0xdb, 0x32, 0xfe, 0xff, 0xa1, 0x00, 0x00, 0x00⟩, none, .atomicFetchXor64 2 0xfffe 3),
    (⟨0xc3, 0x32, 0xfe, 0xff, 0xe1, 0x00, 0x00, 0x00⟩, none, .atomicXchg32 2 0xfffe 3),
    (⟨0xdb, 0x32, 0xfe, 0xff, 0xe1, 0x00, 0x00, 0x00⟩, none, .atomicXchg64 2 0xfffe 3),
    (⟨0xc3, 0x32, 0xfe, 0xff, 0xf1, 0x00, 0x00, 0x00⟩, none, .atomicCmpxchg32 2 0xfffe 3),
    (⟨0xdb, 0x32, 0xfe, 0xff, 0xf1, 0x00, 0x00, 0x00⟩, none, .atomicCmpxchg64 2 0xfffe 3)] = true := by
  decide +kernel

theorem test_decode_imm64 : allDecode [
    (⟨0x18, 0x01, 0x00, 0x00, 0xdc, 0xfe, 0x65, 0x87⟩, some
      ⟨0x00, 0x00, 0x00, 0x00, 0x11, 0x22, 0x33, 0x44⟩,
      .lddw 1 0x8765fedc 0x44332211),
    (⟨0x18, 0x11, 0x00, 0x00, 0xdc, 0xfe, 0x65, 0x87⟩, some
      ⟨0x00, 0x00, 0x00, 0x00, 0x00, 0x00, 0x00, 0x00⟩,
      .ldMapFd 1 0x8765fedc),
    (⟨0x18, 0x21, 0x00, 0x00, 0xdc, 0xfe, 0x65, 0x87⟩, some
      ⟨0x00, 0x00, 0x00, 0x00, 0x11, 0x22, 0x33, 0x44⟩,
      .ldMapValFd 1 0x8765fedc 0x44332211),
    (⟨0x18, 0x31, 0x00, 0x00, 0xdc, 0xfe, 0x65, 0x87⟩, some
      ⟨0x00, 0x00, 0x00, 0x00, 0x00, 0x00, 0x00, 0x00⟩,
      .ldVarAddr 1 0x8765fedc),
    (⟨0x18, 0x41, 0x00, 0x00, 0xdc, 0xfe, 0x65, 0x87⟩, some
      ⟨0x00, 0x00, 0x00, 0x00, 0x00, 0x00, 0x00, 0x00⟩,
      .ldCodeAddr 1 0x8765fedc),
    (⟨0x18, 0x51, 0x00, 0x00, 0xdc, 0xfe, 0x65, 0x87⟩, some
      ⟨0x00, 0x00, 0x00, 0x00, 0x00, 0x00, 0x00, 0x00⟩,
      .ldMapIdx 1 0x8765fedc),
    (⟨0x18, 0x61, 0x00, 0x00, 0xdc, 0xfe, 0x65, 0x87⟩, some
      ⟨0x00, 0x00, 0x00, 0x00, 0x11, 0x22, 0x33, 0x44⟩,
      .ldMapValIdx 1 0x8765fedc 0x44332211)] = true := by
  decide +kernel


/-! ### One step of every instruction: vectors of 95_test_vectors.md and 96_test_vectors_memory.md

`result r` is what register `r` holds and where `pc` is; `memory` is every byte written so far. -/

/-- V9 `add64 r1, 1`, V10 `add32 r1, 1`. -/
theorem test_step_add :
    result 1 (step (vector 0 [⟨0x07, 0x01, 0x00, 0x00, 0x01, 0x00, 0x00, 0x00⟩] [(1, 0xffffffffffffffff)] [])) =
      some (.value 0x0, 1) ∧
    result 1 (step (vector 0 [⟨0x04, 0x01, 0x00, 0x00, 0x01, 0x00, 0x00, 0x00⟩] [(1, 0x1ffffffff)] [])) =
      some (.value 0x0, 1) := by
  decide +kernel

/-- V15 `sub64 r1, 1`, V16 `sub32 r1, 1`. -/
theorem test_step_sub :
    result 1 (step (vector 0 [⟨0x17, 0x01, 0x00, 0x00, 0x01, 0x00, 0x00, 0x00⟩] [(1, 0x0)] [])) =
      some (.value 0xffffffffffffffff, 1) ∧
    result 1 (step (vector 0 [⟨0x14, 0x01, 0x00, 0x00, 0x01, 0x00, 0x00, 0x00⟩] [(1, 0x0)] [])) =
      some (.value 0xffffffff, 1) := by
  decide +kernel

/-- V18 `mul64 r1, r2`, V19 `mul32 r1, -1`. -/
theorem test_step_mul :
    result 1 (step (vector 0 [⟨0x2f, 0x21, 0x00, 0x00, 0x00, 0x00, 0x00, 0x00⟩] [(1, 0x100000000), (2, 0x100000000)] [])) =
      some (.value 0x0, 1) ∧
    result 1 (step (vector 0 [⟨0x24, 0x01, 0x00, 0x00, 0xff, 0xff, 0xff, 0xff⟩] [(1, 0xffffffff)] [])) =
      some (.value 0x1, 1) := by
  decide +kernel

/-- V44 `div64 r1, r2`, V48 `div64 r1, -1`, V45 `div32 r1, r2`. -/
theorem test_step_div :
    result 1 (step (vector 0 [⟨0x3f, 0x21, 0x00, 0x00, 0x00, 0x00, 0x00, 0x00⟩] [(1, 0xd), (2, 0x0)] [])) =
      some (.value 0x0, 1) ∧
    result 1 (step (vector 0 [⟨0x37, 0x01, 0x00, 0x00, 0xff, 0xff, 0xff, 0xff⟩] [(1, 0x7)] [])) =
      some (.value 0x0, 1) ∧
    result 1 (step (vector 0 [⟨0x3c, 0x21, 0x00, 0x00, 0x00, 0x00, 0x00, 0x00⟩] [(1, 0xdeadbeef0000000d), (2, 0x100000000)] [])) =
      some (.value 0x0, 1) := by
  decide +kernel

/-- V55 `sdiv64 r1, 2`, V57 `sdiv32 r1, 2`. -/
theorem test_step_sdiv :
    result 1 (step (vector 0 [⟨0x37, 0x01, 0x01, 0x00, 0x02, 0x00, 0x00, 0x00⟩] [(1, 0xfffffffffffffff9)] [])) =
      some (.value 0xfffffffffffffffd, 1) ∧
    result 1 (step (vector 0 [⟨0x34, 0x01, 0x01, 0x00, 0x02, 0x00, 0x00, 0x00⟩] [(1, 0xfffffff9)] [])) =
      some (.value 0xfffffffd, 1) := by
  decide +kernel

/-- V25 `or64 r1, 0x80000000`, V26 `or32 r1, 0x80000000`. -/
theorem test_step_or :
    result 1 (step (vector 0 [⟨0x47, 0x01, 0x00, 0x00, 0x00, 0x00, 0x00, 0x80⟩] [(1, 0x1)] [])) =
      some (.value 0xffffffff80000001, 1) ∧
    result 1 (step (vector 0 [⟨0x44, 0x01, 0x00, 0x00, 0x00, 0x00, 0x00, 0x80⟩] [(1, 0xaaaaaaaa00000001)] [])) =
      some (.value 0x80000001, 1) := by
  decide +kernel

/-- V27 `and64 r1, 0xff`, V28 `and32 r1, -1`. -/
theorem test_step_and :
    result 1 (step (vector 0 [⟨0x57, 0x01, 0x00, 0x00, 0xff, 0x00, 0x00, 0x00⟩] [(1, 0x123456789abcdef0)] [])) =
      some (.value 0xf0, 1) ∧
    result 1 (step (vector 0 [⟨0x54, 0x01, 0x00, 0x00, 0xff, 0xff, 0xff, 0xff⟩] [(1, 0x123456789abcdef0)] [])) =
      some (.value 0x9abcdef0, 1) := by
  decide +kernel

/-- V68 `lsh64 r1, 63`, V71 `lsh32 r1, 4`. -/
theorem test_step_lsh :
    result 1 (step (vector 0 [⟨0x67, 0x01, 0x00, 0x00, 0x3f, 0x00, 0x00, 0x00⟩] [(1, 0x3)] [])) =
      some (.value 0x8000000000000000, 1) ∧
    result 1 (step (vector 0 [⟨0x64, 0x01, 0x00, 0x00, 0x04, 0x00, 0x00, 0x00⟩] [(1, 0xfffffffff0000001)] [])) =
      some (.value 0x10, 1) := by
  decide +kernel

/-- V73 `rsh64 r1, 63`, V74 `rsh32 r1, 4`. -/
theorem test_step_rsh :
    result 1 (step (vector 0 [⟨0x77, 0x01, 0x00, 0x00, 0x3f, 0x00, 0x00, 0x00⟩] [(1, 0x8000000000000000)] [])) =
      some (.value 0x1, 1) ∧
    result 1 (step (vector 0 [⟨0x74, 0x01, 0x00, 0x00, 0x04, 0x00, 0x00, 0x00⟩] [(1, 0xffffffff80000000)] [])) =
      some (.value 0x8000000, 1) := by
  decide +kernel

/-- V46 `mod64 r1, 0`, V47 `mod32 r1, 0`. -/
theorem test_step_mod :
    result 1 (step (vector 0 [⟨0x97, 0x01, 0x00, 0x00, 0x00, 0x00, 0x00, 0x00⟩] [(1, 0xd)] [])) =
      some (.value 0xd, 1) ∧
    result 1 (step (vector 0 [⟨0x94, 0x01, 0x00, 0x00, 0x00, 0x00, 0x00, 0x00⟩] [(1, 0xdeadbeef0000000d)] [])) =
      some (.value 0xd, 1) := by
  decide +kernel

/-- V61 `smod64 r1, 3`, V63 `smod32 r1, 3`. -/
theorem test_step_smod :
    result 1 (step (vector 0 [⟨0x97, 0x01, 0x01, 0x00, 0x03, 0x00, 0x00, 0x00⟩] [(1, 0xfffffffffffffff3)] [])) =
      some (.value 0xffffffffffffffff, 1) ∧
    result 1 (step (vector 0 [⟨0x94, 0x01, 0x01, 0x00, 0x03, 0x00, 0x00, 0x00⟩] [(1, 0xfffffff3)] [])) =
      some (.value 0xffffffff, 1) := by
  decide +kernel

/-- V29 `xor64 r1, -1`, V30 `xor32 r1, -1`. -/
theorem test_step_xor :
    result 1 (step (vector 0 [⟨0xa7, 0x01, 0x00, 0x00, 0xff, 0xff, 0xff, 0xff⟩] [(1, 0xf0)] [])) =
      some (.value 0xffffffffffffff0f, 1) ∧
    result 1 (step (vector 0 [⟨0xa4, 0x01, 0x00, 0x00, 0xff, 0xff, 0xff, 0xff⟩] [(1, 0x11111111000000f0)] [])) =
      some (.value 0xffffff0f, 1) := by
  decide +kernel

/-- V36 `mov64 r1, r10`, V33 `mov32 r0, -1`. -/
theorem test_step_mov :
    result 1 (step (vector 0 [⟨0xbf, 0xa1, 0x00, 0x00, 0x00, 0x00, 0x00, 0x00⟩] [] [])) =
      some (.value 0x10000, 1) ∧
    result 0 (step (vector 0 [⟨0xb4, 0x00, 0x00, 0x00, 0xff, 0xff, 0xff, 0xff⟩] [] [])) =
      some (.value 0xffffffff, 1) := by
  decide +kernel

/-- V76 `arsh64 r1, 63`, V78 `arsh32 r1, 4`. -/
theorem test_step_arsh :
    result 1 (step (vector 0 [⟨0xc7, 0x01, 0x00, 0x00, 0x3f, 0x00, 0x00, 0x00⟩] [(1, 0x8000000000000000)] [])) =
      some (.value 0xffffffffffffffff, 1) ∧
    result 1 (step (vector 0 [⟨0xc4, 0x01, 0x00, 0x00, 0x04, 0x00, 0x00, 0x00⟩] [(1, 0x80000000)] [])) =
      some (.value 0xf8000000, 1) := by
  decide +kernel

/-- V21 `neg64 r1`, V23 `neg32 r1`. -/
theorem test_step_neg :
    result 1 (step (vector 0 [⟨0x87, 0x01, 0x00, 0x00, 0x00, 0x00, 0x00, 0x00⟩] [(1, 0x1)] [])) =
      some (.value 0xffffffffffffffff, 1) ∧
    result 1 (step (vector 0 [⟨0x84, 0x01, 0x00, 0x00, 0x00, 0x00, 0x00, 0x00⟩] [(1, 0xffffffff00000001)] [])) =
      some (.value 0xffffffff, 1) := by
  decide +kernel

/-- V37 `movsx8_64 r1, r2`, V39 `movsx16_64 r1, r2`, V40 `movsx32_64 r1, r2`. -/
theorem test_step_movsx_64 :
    result 1 (step (vector 0 [⟨0xbf, 0x21, 0x08, 0x00, 0x00, 0x00, 0x00, 0x00⟩] [(2, 0x180)] [])) =
      some (.value 0xffffffffffffff80, 1) ∧
    result 1 (step (vector 0 [⟨0xbf, 0x21, 0x10, 0x00, 0x00, 0x00, 0x00, 0x00⟩] [(2, 0x18000)] [])) =
      some (.value 0xffffffffffff8000, 1) ∧
    result 1 (step (vector 0 [⟨0xbf, 0x21, 0x20, 0x00, 0x00, 0x00, 0x00, 0x00⟩] [(2, 0x180000000)] [])) =
      some (.value 0xffffffff80000000, 1) := by
  decide +kernel

/-- V41 `movsx8_32 r1, r2`, V42 `movsx16_32 r1, r2`. -/
theorem test_step_movsx_32 :
    result 1 (step (vector 0 [⟨0xbc, 0x21, 0x08, 0x00, 0x00, 0x00, 0x00, 0x00⟩] [(2, 0x180)] [])) =
      some (.value 0xffffff80, 1) ∧
    result 1 (step (vector 0 [⟨0xbc, 0x21, 0x10, 0x00, 0x00, 0x00, 0x00, 0x00⟩] [(2, 0x18000)] [])) =
      some (.value 0xffff8000, 1) := by
  decide +kernel

/-- V80 `le16 r1`, V81 `le32 r1`, V82 `le64 r1`. -/
theorem test_step_le :
    result 1 (step (vector 0 [⟨0xd4, 0x01, 0x00, 0x00, 0x10, 0x00, 0x00, 0x00⟩] [(1, 0x1122334455667788)] [])) =
      some (.value 0x7788, 1) ∧
    result 1 (step (vector 0 [⟨0xd4, 0x01, 0x00, 0x00, 0x20, 0x00, 0x00, 0x00⟩] [(1, 0x1122334455667788)] [])) =
      some (.value 0x55667788, 1) ∧
    result 1 (step (vector 0 [⟨0xd4, 0x01, 0x00, 0x00, 0x40, 0x00, 0x00, 0x00⟩] [(1, 0x1122334455667788)] [])) =
      some (.value 0x1122334455667788, 1) := by
  decide +kernel

/-- V83 `be16 r1`, V84 `be32 r1`, V85 `be64 r1`. -/
theorem test_step_be :
    result 1 (step (vector 0 [⟨0xdc, 0x01, 0x00, 0x00, 0x10, 0x00, 0x00, 0x00⟩] [(1, 0x1122334455667788)] [])) =
      some (.value 0x8877, 1) ∧
    result 1 (step (vector 0 [⟨0xdc, 0x01, 0x00, 0x00, 0x20, 0x00, 0x00, 0x00⟩] [(1, 0x1122334455667788)] [])) =
      some (.value 0x88776655, 1) ∧
    result 1 (step (vector 0 [⟨0xdc, 0x01, 0x00, 0x00, 0x40, 0x00, 0x00, 0x00⟩] [(1, 0x1122334455667788)] [])) =
      some (.value 0x8877665544332211, 1) := by
  decide +kernel

/-- V86 `bswap16 r1`, V87 `bswap32 r1`, V88 `bswap64 r1`. -/
theorem test_step_bswap :
    result 1 (step (vector 0 [⟨0xd7, 0x01, 0x00, 0x00, 0x10, 0x00, 0x00, 0x00⟩] [(1, 0x1122334455667788)] [])) =
      some (.value 0x8877, 1) ∧
    result 1 (step (vector 0 [⟨0xd7, 0x01, 0x00, 0x00, 0x20, 0x00, 0x00, 0x00⟩] [(1, 0x1122334455667788)] [])) =
      some (.value 0x88776655, 1) ∧
    result 1 (step (vector 0 [⟨0xd7, 0x01, 0x00, 0x00, 0x40, 0x00, 0x00, 0x00⟩] [(1, 0x1122334455667788)] [])) =
      some (.value 0x8877665544332211, 1) := by
  decide +kernel

/-- V98 `ja +3`, V101 `ja32 -3`. -/
theorem test_step_ja :
    slotAfter (step (vector 10 [⟨0x05, 0x00, 0x03, 0x00, 0x00, 0x00, 0x00, 0x00⟩] [] [])) = some 14 ∧
    slotAfter (step (vector 10 [⟨0x06, 0x00, 0x00, 0x00, 0xfd, 0xff, 0xff, 0xff⟩] [] [])) = some 8 := by
  decide +kernel

/-- V104 `jeq64 r1, 5, +2`, V105 `jeq64 r1, 5, +2`, V106 `jeq32 r1, 5, +2`. -/
theorem test_step_jeq :
    slotAfter (step (vector 4 [⟨0x15, 0x01, 0x02, 0x00, 0x05, 0x00, 0x00, 0x00⟩] [(1, 0x5)] [])) = some 7 ∧
    slotAfter (step (vector 4 [⟨0x15, 0x01, 0x02, 0x00, 0x05, 0x00, 0x00, 0x00⟩] [(1, 0x100000005)] [])) = some 5 ∧
    slotAfter (step (vector 4 [⟨0x16, 0x01, 0x02, 0x00, 0x05, 0x00, 0x00, 0x00⟩] [(1, 0x100000005)] [])) = some 7 := by
  decide +kernel

/-- V109 `jgt64 r1, -1, +2`, V110 `jgt32 r1, r2, +2`. -/
theorem test_step_jgt :
    slotAfter (step (vector 4 [⟨0x25, 0x01, 0x02, 0x00, 0xff, 0xff, 0xff, 0xff⟩] [(1, 0xffffffffffffffff)] [])) = some 5 ∧
    slotAfter (step (vector 4 [⟨0x2e, 0x21, 0x02, 0x00, 0x00, 0x00, 0x00, 0x00⟩] [(1, 0x2), (2, 0xffffffff00000001)] [])) = some 7 := by
  decide +kernel

/-- V111 `jge64 r1, 0, +2`, V112 `jge32 r1, 3, +2`. -/
theorem test_step_jge :
    slotAfter (step (vector 4 [⟨0x35, 0x01, 0x02, 0x00, 0x00, 0x00, 0x00, 0x00⟩] [(1, 0x0)] [])) = some 7 ∧
    slotAfter (step (vector 4 [⟨0x36, 0x01, 0x02, 0x00, 0x03, 0x00, 0x00, 0x00⟩] [(1, 0xffffffff00000002)] [])) = some 5 := by
  decide +kernel

/-- V113 `jset64 r1, 4, +2`, V115 `jset32 r1, -1, +2`. -/
theorem test_step_jset :
    slotAfter (step (vector 4 [⟨0x45, 0x01, 0x02, 0x00, 0x04, 0x00, 0x00, 0x00⟩] [(1, 0x6)] [])) = some 7 ∧
    slotAfter (step (vector 4 [⟨0x46, 0x01, 0x02, 0x00, 0xff, 0xff, 0xff, 0xff⟩] [(1, 0xffffffff00000000)] [])) = some 5 := by
  decide +kernel

/-- V117 `jne64 r1, 0, -3`, V118 `jne64 r1, 0, -3`, V119 `jne32 r1, 0, +2`. -/
theorem test_step_jne :
    slotAfter (step (vector 4 [⟨0x55, 0x01, 0xfd, 0xff, 0x00, 0x00, 0x00, 0x00⟩] [(1, 0x9)] [])) = some 2 ∧
    slotAfter (step (vector 4 [⟨0x55, 0x01, 0xfd, 0xff, 0x00, 0x00, 0x00, 0x00⟩] [(1, 0x0)] [])) = some 5 ∧
    slotAfter (step (vector 4 [⟨0x56, 0x01, 0x02, 0x00, 0x00, 0x00, 0x00, 0x00⟩] [(1, 0x100000000)] [])) = some 5 := by
  decide +kernel

/-- V120 `jsgt64 r1, -1, +2`, V122 `jsgt32 r1, 0, +2`. -/
theorem test_step_jsgt :
    slotAfter (step (vector 4 [⟨0x65, 0x01, 0x02, 0x00, 0xff, 0xff, 0xff, 0xff⟩] [(1, 0x0)] [])) = some 7 ∧
    slotAfter (step (vector 4 [⟨0x66, 0x01, 0x02, 0x00, 0x00, 0x00, 0x00, 0x00⟩] [(1, 0x80000000)] [])) = some 5 := by
  decide +kernel

/-- V123 `jsge64 r1, 0, +2`, V124 `jsge32 r1, 0, +2`. -/
theorem test_step_jsge :
    slotAfter (step (vector 4 [⟨0x75, 0x01, 0x02, 0x00, 0x00, 0x00, 0x00, 0x00⟩] [(1, 0x8000000000000000)] [])) = some 5 ∧
    slotAfter (step (vector 4 [⟨0x76, 0x01, 0x02, 0x00, 0x00, 0x00, 0x00, 0x00⟩] [(1, 0x8000000000000000)] [])) = some 7 := by
  decide +kernel

/-- V125 `jlt64 r1, 10, +2`, V127 `jlt32 r1, 10, +2`. -/
theorem test_step_jlt :
    slotAfter (step (vector 4 [⟨0xa5, 0x01, 0x02, 0x00, 0x0a, 0x00, 0x00, 0x00⟩] [(1, 0x9)] [])) = some 7 ∧
    slotAfter (step (vector 4 [⟨0xa6, 0x01, 0x02, 0x00, 0x0a, 0x00, 0x00, 0x00⟩] [(1, 0xffffffff00000009)] [])) = some 7 := by
  decide +kernel

/-- V128 `jle64 r1, 10, +2`, V130 `jle32 r1, 10, +2`. -/
theorem test_step_jle :
    slotAfter (step (vector 4 [⟨0xb5, 0x01, 0x02, 0x00, 0x0a, 0x00, 0x00, 0x00⟩] [(1, 0xa)] [])) = some 7 ∧
    slotAfter (step (vector 4 [⟨0xb6, 0x01, 0x02, 0x00, 0x0a, 0x00, 0x00, 0x00⟩] [(1, 0x10000000a)] [])) = some 7 := by
  decide +kernel

/-- V131 `jslt64 r1, 0, +2`, V133 `jslt32 r1, 0, +2`. -/
theorem test_step_jslt :
    slotAfter (step (vector 4 [⟨0xc5, 0x01, 0x02, 0x00, 0x00, 0x00, 0x00, 0x00⟩] [(1, 0xffffffffffffffff)] [])) = some 7 ∧
    slotAfter (step (vector 4 [⟨0xc6, 0x01, 0x02, 0x00, 0x00, 0x00, 0x00, 0x00⟩] [(1, 0xffffffff)] [])) = some 7 := by
  decide +kernel

/-- V134 `jsle64 r1, r2, +2`, V135 `jsle32 r1, -1, +2`. -/
theorem test_step_jsle :
    slotAfter (step (vector 4 [⟨0xdd, 0x21, 0x02, 0x00, 0x00, 0x00, 0x00, 0x00⟩] [(1, 0x8000000000000000), (2, 0x7fffffffffffffff)] [])) = some 7 ∧
    slotAfter (step (vector 4 [⟨0xd6, 0x01, 0x02, 0x00, 0xff, 0xff, 0xff, 0xff⟩] [(1, 0x80000000)] [])) = some 7 := by
  decide +kernel

/-- V148 `ldxw r0, [r1+4]`. -/
theorem test_step_words_ldx :
    result 0 (step (vector 0 [⟨0x61, 0x10, 0x04, 0x00, 0x00, 0x00, 0x00, 0x00⟩] [(1, 0x1000)] [(0x1004, 0x78), (0x1005, 0x56), (0x1006, 0x34), (0x1007, 0xf2)])) =
      some (.value 0xf2345678, 1) := by
  decide +kernel

/-- V150 `ldxh r0, [r1+2]`. -/
theorem test_step_halves_ldx :
    result 0 (step (vector 0 [⟨0x69, 0x10, 0x02, 0x00, 0x00, 0x00, 0x00, 0x00⟩] [(1, 0x1000)] [(0x1002, 0xef), (0x1003, 0xbe)])) =
      some (.value 0xbeef, 1) := by
  decide +kernel

/-- V153 `ldxb r0, [r1-1]`. -/
theorem test_step_bytes_ldx :
    result 0 (step (vector 0 [⟨0x71, 0x10, 0xff, 0xff, 0x00, 0x00, 0x00, 0x00⟩] [(1, 0x1001)] [(0x1000, 0x80)])) =
      some (.value 0x80, 1) := by
  decide +kernel

/-- V155 `ldxdw r1, [r10-8]`. -/
theorem test_step_ldxdw :
    result 1 (step (vector 0 [⟨0x79, 0xa1, 0xf8, 0xff, 0x00, 0x00, 0x00, 0x00⟩] [] [(0xfff8, 0x88), (0xfff9, 0x77), (0xfffa, 0x66), (0xfffb, 0x55), (0xfffc, 0x44), (0xfffd, 0x33), (0xfffe, 0x22), (0xffff, 0x11)])) =
      some (.value 0x1122334455667788, 1) := by
  decide +kernel

/-- V149 `ldxsw r0, [r1+4]`. -/
theorem test_step_words_ldxs :
    result 0 (step (vector 0 [⟨0x81, 0x10, 0x04, 0x00, 0x00, 0x00, 0x00, 0x00⟩] [(1, 0x1000)] [(0x1004, 0x78), (0x1005, 0x56), (0x1006, 0x34), (0x1007, 0xf2)])) =
      some (.value 0xfffffffff2345678, 1) := by
  decide +kernel

/-- V151 `ldxsh r0, [r1+2]`. -/
theorem test_step_halves_ldxs :
    result 0 (step (vector 0 [⟨0x89, 0x10, 0x02, 0x00, 0x00, 0x00, 0x00, 0x00⟩] [(1, 0x1000)] [(0x1002, 0xef), (0x1003, 0xbe)])) =
      some (.value 0xffffffffffffbeef, 1) := by
  decide +kernel

/-- V154 `ldxsb r0, [r1-1]`. -/
theorem test_step_bytes_ldxs :
    result 0 (step (vector 0 [⟨0x91, 0x10, 0xff, 0xff, 0x00, 0x00, 0x00, 0x00⟩] [(1, 0x1001)] [(0x1000, 0x80)])) =
      some (.value 0xffffffffffffff80, 1) := by
  decide +kernel

/-- V160 `stw [r10-4], 0x12345678`. -/
theorem test_step_words_st :
    memory (step (vector 0 [⟨0x62, 0x0a, 0xfc, 0xff, 0x78, 0x56, 0x34, 0x12⟩] [] [])) =
      some [(0xfffc, 0x78), (0xfffd, 0x56), (0xfffe, 0x34), (0xffff, 0x12)] := by
  decide +kernel

/-- V162 `sth [r10-2], 0xdeadbeef`. -/
theorem test_step_halves_st :
    memory (step (vector 0 [⟨0x6a, 0x0a, 0xfe, 0xff, 0xef, 0xbe, 0xad, 0xde⟩] [] [])) =
      some [(0xfffe, 0xef), (0xffff, 0xbe)] := by
  decide +kernel

/-- V163 `stb [r10-1], 0x7f`. -/
theorem test_step_bytes_st :
    memory (step (vector 0 [⟨0x72, 0x0a, 0xff, 0xff, 0x7f, 0x00, 0x00, 0x00⟩] [] [])) =
      some [(0xffff, 0x7f)] := by
  decide +kernel

/-- V164 `stdw [r10-8], -1`. -/
theorem test_step_stdw :
    memory (step (vector 0 [⟨0x7a, 0x0a, 0xf8, 0xff, 0xff, 0xff, 0xff, 0xff⟩] [] [])) =
      some [(0xfff8, 0xff), (0xfff9, 0xff), (0xfffa, 0xff), (0xfffb, 0xff), (0xfffc, 0xff), (0xfffd, 0xff), (0xfffe, 0xff), (0xffff, 0xff)] := by
  decide +kernel

/-- V166 `stxw [r10-4], r1`. -/
theorem test_step_words_stx :
    memory (step (vector 0 [⟨0x63, 0x1a, 0xfc, 0xff, 0x00, 0x00, 0x00, 0x00⟩] [(1, 0x1122334455667788)] [])) =
      some [(0xfffc, 0x88), (0xfffd, 0x77), (0xfffe, 0x66), (0xffff, 0x55)] := by
  decide +kernel

/-- V167 `stxh [r10-2], r1`. -/
theorem test_step_halves_stx :
    memory (step (vector 0 [⟨0x6b, 0x1a, 0xfe, 0xff, 0x00, 0x00, 0x00, 0x00⟩] [(1, 0x1122334455667788)] [])) =
      some [(0xfffe, 0x88), (0xffff, 0x77)] := by
  decide +kernel

/-- V168 `stxb [r10-1], r1`. -/
theorem test_step_bytes_stx :
    memory (step (vector 0 [⟨0x73, 0x1a, 0xff, 0xff, 0x00, 0x00, 0x00, 0x00⟩] [(1, 0x1122334455667788)] [])) =
      some [(0xffff, 0x88)] := by
  decide +kernel

/-- V169 `stxdw [r10-8], r1`. -/
theorem test_step_stxdw :
    memory (step (vector 0 [⟨0x7b, 0x1a, 0xf8, 0xff, 0x00, 0x00, 0x00, 0x00⟩] [(1, 0x1122334455667788)] [])) =
      some [(0xfff8, 0x88), (0xfff9, 0x77), (0xfffa, 0x66), (0xfffb, 0x55), (0xfffc, 0x44), (0xfffd, 0x33), (0xfffe, 0x22), (0xffff, 0x11)] := by
  decide +kernel

/-- V184 `atomic_add32 [r10-4], r1`, V185 `atomic_add64 [r10-8], r1`. -/
theorem test_step_atomic_add :
    memory (step (vector 0 [⟨0xc3, 0x1a, 0xfc, 0xff, 0x00, 0x00, 0x00, 0x00⟩] [(1, 0x100000002)] [(0xfffc, 0xff), (0xfffd, 0xff), (0xfffe, 0xff), (0xffff, 0xff)])) =
      some [(0xfffc, 0x01), (0xfffd, 0x00), (0xfffe, 0x00), (0xffff, 0x00)] ∧
    memory (step (vector 0 [⟨0xdb, 0x1a, 0xf8, 0xff, 0x00, 0x00, 0x00, 0x00⟩] [(1, 0x5)] [(0xfff8, 0x28), (0xfff9, 0x00), (0xfffa, 0x00), (0xfffb, 0x00), (0xfffc, 0x00), (0xfffd, 0x00), (0xfffe, 0x00), (0xffff, 0x00)])) =
      some [(0xfff8, 0x2d), (0xfff9, 0x00), (0xfffa, 0x00), (0xfffb, 0x00), (0xfffc, 0x00), (0xfffd, 0x00), (0xfffe, 0x00), (0xffff, 0x00)] := by
  decide +kernel

/-- V186 `atomic_or32 [r10-4], r1`, V187 `atomic_or64 [r10-8], r1`. -/
theorem test_step_atomic_or :
    memory (step (vector 0 [⟨0xc3, 0x1a, 0xfc, 0xff, 0x40, 0x00, 0x00, 0x00⟩] [(1, 0xf)] [(0xfffc, 0xf0), (0xfffd, 0x00), (0xfffe, 0x00), (0xffff, 0x00)])) =
      some [(0xfffc, 0xff), (0xfffd, 0x00), (0xfffe, 0x00), (0xffff, 0x00)] ∧
    memory (step (vector 0 [⟨0xdb, 0x1a, 0xf8, 0xff, 0x40, 0x00, 0x00, 0x00⟩] [(1, 0x8000000000000000)] [(0xfff8, 0x01), (0xfff9, 0x00), (0xfffa, 0x00), (0xfffb, 0x00), (0xfffc, 0x00), (0xfffd, 0x00), (0xfffe, 0x00), (0xffff, 0x00)])) =
      some [(0xfff8, 0x01), (0xfff9, 0x00), (0xfffa, 0x00), (0xfffb, 0x00), (0xfffc, 0x00), (0xfffd, 0x00), (0xfffe, 0x00), (0xffff, 0x80)] := by
  decide +kernel

/-- V188 `atomic_and32 [r10-4], r1`, V189 `atomic_and64 [r10-8], r1`. -/
theorem test_step_atomic_and :
    memory (step (vector 0 [⟨0xc3, 0x1a, 0xfc, 0xff, 0x50, 0x00, 0x00, 0x00⟩] [(1, 0xff0)] [(0xfffc, 0x78), (0xfffd, 0x56), (0xfffe, 0x34), (0xffff, 0x12)])) =
      some [(0xfffc, 0x70), (0xfffd, 0x06), (0xfffe, 0x00), (0xffff, 0x00)] ∧
    memory (step (vector 0 [⟨0xdb, 0x1a, 0xf8, 0xff, 0x50, 0x00, 0x00, 0x00⟩] [(1, 0xffffffff)] [(0xfff8, 0x88), (0xfff9, 0x77), (0xfffa, 0x66), (0xfffb, 0x55), (0xfffc, 0x44), (0xfffd, 0x33), (0xfffe, 0x22), (0xffff, 0x11)])) =
      some [(0xfff8, 0x88), (0xfff9, 0x77), (0xfffa, 0x66), (0xfffb, 0x55), (0xfffc, 0x00), (0xfffd, 0x00), (0xfffe, 0x00), (0xffff, 0x00)] := by
  decide +kernel

/-- V190 `atomic_xor32 [r10-4], r1`, V191 `atomic_xor64 [r10-8], r1`. -/
theorem test_step_atomic_xor :
    memory (step (vector 0 [⟨0xc3, 0x1a, 0xfc, 0xff, 0xa0, 0x00, 0x00, 0x00⟩] [(1, 0xffffffff)] [(0xfffc, 0x78), (0xfffd, 0x56), (0xfffe, 0x34), (0xffff, 0x12)])) =
      some [(0xfffc, 0x87), (0xfffd, 0xa9), (0xfffe, 0xcb), (0xffff, 0xed)] ∧
    memory (step (vector 0 [⟨0xdb, 0x1a, 0xf8, 0xff, 0xa0, 0x00, 0x00, 0x00⟩] [(1, 0xffffffffffffffff)] [(0xfff8, 0xff), (0xfff9, 0x00), (0xfffa, 0x00), (0xfffb, 0x00), (0xfffc, 0x00), (0xfffd, 0x00), (0xfffe, 0x00), (0xffff, 0x00)])) =
      some [(0xfff8, 0x00), (0xfff9, 0xff), (0xfffa, 0xff), (0xfffb, 0xff), (0xfffc, 0xff), (0xfffd, 0xff), (0xfffe, 0xff), (0xffff, 0xff)] := by
  decide +kernel

/-- V192 `atomic_fetch_add32 [r10-4], r1`, V193 `atomic_fetch_add64 [r10-8], r1`, V207
`atomic_fetch_add64 [r1+0], r1`. -/
theorem test_step_atomic_fetch_add :
    memory (step (vector 0 [⟨0xc3, 0x1a, 0xfc, 0xff, 0x01, 0x00, 0x00, 0x00⟩] [(1, 0xffffffff00000001)] [(0xfffc, 0xff), (0xfffd, 0xff), (0xfffe, 0xff), (0xffff, 0xff)])) =
      some [(0xfffc, 0x00), (0xfffd, 0x00), (0xfffe, 0x00), (0xffff, 0x00)] ∧
    result 1 (step (vector 0 [⟨0xc3, 0x1a, 0xfc, 0xff, 0x01, 0x00, 0x00, 0x00⟩] [(1, 0xffffffff00000001)] [(0xfffc, 0xff), (0xfffd, 0xff), (0xfffe, 0xff), (0xffff, 0xff)])) =
      some (.value 0xffffffff, 1) ∧
    memory (step (vector 0 [⟨0xdb, 0x1a, 0xf8, 0xff, 0x01, 0x00, 0x00, 0x00⟩] [(1, 0x5)] [(0xfff8, 0x28), (0xfff9, 0x00), (0xfffa, 0x00), (0xfffb, 0x00), (0xfffc, 0x00), (0xfffd, 0x00), (0xfffe, 0x00), (0xffff, 0x00)])) =
      some [(0xfff8, 0x2d), (0xfff9, 0x00), (0xfffa, 0x00), (0xfffb, 0x00), (0xfffc, 0x00), (0xfffd, 0x00), (0xfffe, 0x00), (0xffff, 0x00)] ∧
    result 1 (step (vector 0 [⟨0xdb, 0x1a, 0xf8, 0xff, 0x01, 0x00, 0x00, 0x00⟩] [(1, 0x5)] [(0xfff8, 0x28), (0xfff9, 0x00), (0xfffa, 0x00), (0xfffb, 0x00), (0xfffc, 0x00), (0xfffd, 0x00), (0xfffe, 0x00), (0xffff, 0x00)])) =
      some (.value 0x28, 1) ∧
    memory (step (vector 0 [⟨0xdb, 0x11, 0x00, 0x00, 0x01, 0x00, 0x00, 0x00⟩] [(1, 0x1000)] [(0x1000, 0x03), (0x1001, 0x00), (0x1002, 0x00), (0x1003, 0x00), (0x1004, 0x00), (0x1005, 0x00), (0x1006, 0x00), (0x1007, 0x00)])) =
      some [(0x1000, 0x03), (0x1001, 0x10), (0x1002, 0x00), (0x1003, 0x00), (0x1004, 0x00), (0x1005, 0x00), (0x1006, 0x00), (0x1007, 0x00)] ∧
    result 1 (step (vector 0 [⟨0xdb, 0x11, 0x00, 0x00, 0x01, 0x00, 0x00, 0x00⟩] [(1, 0x1000)] [(0x1000, 0x03), (0x1001, 0x00), (0x1002, 0x00), (0x1003, 0x00), (0x1004, 0x00), (0x1005, 0x00), (0x1006, 0x00), (0x1007, 0x00)])) =
      some (.value 0x3, 1) := by
  decide +kernel

/-- V194 `atomic_fetch_or32 [r10-4], r1`, V195 `atomic_fetch_or64 [r10-8], r1`. -/
theorem test_step_atomic_fetch_or :
    memory (step (vector 0 [⟨0xc3, 0x1a, 0xfc, 0xff, 0x41, 0x00, 0x00, 0x00⟩] [(1, 0xf)] [(0xfffc, 0xf0), (0xfffd, 0x00), (0xfffe, 0x00), (0xffff, 0x00)])) =
      some [(0xfffc, 0xff), (0xfffd, 0x00), (0xfffe, 0x00), (0xffff, 0x00)] ∧
    result 1 (step (vector 0 [⟨0xc3, 0x1a, 0xfc, 0xff, 0x41, 0x00, 0x00, 0x00⟩] [(1, 0xf)] [(0xfffc, 0xf0), (0xfffd, 0x00), (0xfffe, 0x00), (0xffff, 0x00)])) =
      some (.value 0xf0, 1) ∧
    memory (step (vector 0 [⟨0xdb, 0x1a, 0xf8, 0xff, 0x41, 0x00, 0x00, 0x00⟩] [(1, 0x8000000000000000)] [(0xfff8, 0x01), (0xfff9, 0x00), (0xfffa, 0x00), (0xfffb, 0x00), (0xfffc, 0x00), (0xfffd, 0x00), (0xfffe, 0x00), (0xffff, 0x00)])) =
      some [(0xfff8, 0x01), (0xfff9, 0x00), (0xfffa, 0x00), (0xfffb, 0x00), (0xfffc, 0x00), (0xfffd, 0x00), (0xfffe, 0x00), (0xffff, 0x80)] ∧
    result 1 (step (vector 0 [⟨0xdb, 0x1a, 0xf8, 0xff, 0x41, 0x00, 0x00, 0x00⟩] [(1, 0x8000000000000000)] [(0xfff8, 0x01), (0xfff9, 0x00), (0xfffa, 0x00), (0xfffb, 0x00), (0xfffc, 0x00), (0xfffd, 0x00), (0xfffe, 0x00), (0xffff, 0x00)])) =
      some (.value 0x1, 1) := by
  decide +kernel

/-- V196 `atomic_fetch_and32 [r10-4], r1`, V197 `atomic_fetch_and64 [r10-8], r1`. -/
theorem test_step_atomic_fetch_and :
    memory (step (vector 0 [⟨0xc3, 0x1a, 0xfc, 0xff, 0x51, 0x00, 0x00, 0x00⟩] [(1, 0xff0)] [(0xfffc, 0x78), (0xfffd, 0x56), (0xfffe, 0x34), (0xffff, 0x12)])) =
      some [(0xfffc, 0x70), (0xfffd, 0x06), (0xfffe, 0x00), (0xffff, 0x00)] ∧
    result 1 (step (vector 0 [⟨0xc3, 0x1a, 0xfc, 0xff, 0x51, 0x00, 0x00, 0x00⟩] [(1, 0xff0)] [(0xfffc, 0x78), (0xfffd, 0x56), (0xfffe, 0x34), (0xffff, 0x12)])) =
      some (.value 0x12345678, 1) ∧
    memory (step (vector 0 [⟨0xdb, 0x1a, 0xf8, 0xff, 0x51, 0x00, 0x00, 0x00⟩] [(1, 0xffffffff)] [(0xfff8, 0x88), (0xfff9, 0x77), (0xfffa, 0x66), (0xfffb, 0x55), (0xfffc, 0x44), (0xfffd, 0x33), (0xfffe, 0x22), (0xffff, 0x11)])) =
      some [(0xfff8, 0x88), (0xfff9, 0x77), (0xfffa, 0x66), (0xfffb, 0x55), (0xfffc, 0x00), (0xfffd, 0x00), (0xfffe, 0x00), (0xffff, 0x00)] ∧
    result 1 (step (vector 0 [⟨0xdb, 0x1a, 0xf8, 0xff, 0x51, 0x00, 0x00, 0x00⟩] [(1, 0xffffffff)] [(0xfff8, 0x88), (0xfff9, 0x77), (0xfffa, 0x66), (0xfffb, 0x55), (0xfffc, 0x44), (0xfffd, 0x33), (0xfffe, 0x22), (0xffff, 0x11)])) =
      some (.value 0x1122334455667788, 1) := by
  decide +kernel

/-- V198 `atomic_fetch_xor32 [r10-4], r1`, V199 `atomic_fetch_xor64 [r10-8], r1`. -/
theorem test_step_atomic_fetch_xor :
    memory (step (vector 0 [⟨0xc3, 0x1a, 0xfc, 0xff, 0xa1, 0x00, 0x00, 0x00⟩] [(1, 0xffffffff)] [(0xfffc, 0x78), (0xfffd, 0x56), (0xfffe, 0x34), (0xffff, 0x12)])) =
      some [(0xfffc, 0x87), (0xfffd, 0xa9), (0xfffe, 0xcb), (0xffff, 0xed)] ∧
    result 1 (step (vector 0 [⟨0xc3, 0x1a, 0xfc, 0xff, 0xa1, 0x00, 0x00, 0x00⟩] [(1, 0xffffffff)] [(0xfffc, 0x78), (0xfffd, 0x56), (0xfffe, 0x34), (0xffff, 0x12)])) =
      some (.value 0x12345678, 1) ∧
    memory (step (vector 0 [⟨0xdb, 0x1a, 0xf8, 0xff, 0xa1, 0x00, 0x00, 0x00⟩] [(1, 0xffffffffffffffff)] [(0xfff8, 0xff), (0xfff9, 0x00), (0xfffa, 0x00), (0xfffb, 0x00), (0xfffc, 0x00), (0xfffd, 0x00), (0xfffe, 0x00), (0xffff, 0x00)])) =
      some [(0xfff8, 0x00), (0xfff9, 0xff), (0xfffa, 0xff), (0xfffb, 0xff), (0xfffc, 0xff), (0xfffd, 0xff), (0xfffe, 0xff), (0xffff, 0xff)] ∧
    result 1 (step (vector 0 [⟨0xdb, 0x1a, 0xf8, 0xff, 0xa1, 0x00, 0x00, 0x00⟩] [(1, 0xffffffffffffffff)] [(0xfff8, 0xff), (0xfff9, 0x00), (0xfffa, 0x00), (0xfffb, 0x00), (0xfffc, 0x00), (0xfffd, 0x00), (0xfffe, 0x00), (0xffff, 0x00)])) =
      some (.value 0xff, 1) := by
  decide +kernel

/-- V200 `atomic_xchg32 [r10-4], r1`, V201 `atomic_xchg64 [r10-8], r1`. -/
theorem test_step_atomic_xchg :
    memory (step (vector 0 [⟨0xc3, 0x1a, 0xfc, 0xff, 0xe1, 0x00, 0x00, 0x00⟩] [(1, 0xaaaaaaaa11111111)] [(0xfffc, 0x22), (0xfffd, 0x22), (0xfffe, 0x22), (0xffff, 0x22)])) =
      some [(0xfffc, 0x11), (0xfffd, 0x11), (0xfffe, 0x11), (0xffff, 0x11)] ∧
    result 1 (step (vector 0 [⟨0xc3, 0x1a, 0xfc, 0xff, 0xe1, 0x00, 0x00, 0x00⟩] [(1, 0xaaaaaaaa11111111)] [(0xfffc, 0x22), (0xfffd, 0x22), (0xfffe, 0x22), (0xffff, 0x22)])) =
      some (.value 0x22222222, 1) ∧
    memory (step (vector 0 [⟨0xdb, 0x1a, 0xf8, 0xff, 0xe1, 0x00, 0x00, 0x00⟩] [(1, 0x1111111111111111)] [(0xfff8, 0x22), (0xfff9, 0x22), (0xfffa, 0x22), (0xfffb, 0x22), (0xfffc, 0x22), (0xfffd, 0x22), (0xfffe, 0x22), (0xffff, 0x22)])) =
      some [(0xfff8, 0x11), (0xfff9, 0x11), (0xfffa, 0x11), (0xfffb, 0x11), (0xfffc, 0x11), (0xfffd, 0x11), (0xfffe, 0x11), (0xffff, 0x11)] ∧
    result 1 (step (vector 0 [⟨0xdb, 0x1a, 0xf8, 0xff, 0xe1, 0x00, 0x00, 0x00⟩] [(1, 0x1111111111111111)] [(0xfff8, 0x22), (0xfff9, 0x22), (0xfffa, 0x22), (0xfffb, 0x22), (0xfffc, 0x22), (0xfffd, 0x22), (0xfffe, 0x22), (0xffff, 0x22)])) =
      some (.value 0x2222222222222222, 1) := by
  decide +kernel

/-- V202 `atomic_cmpxchg32 [r10-4], r1`, V203 `atomic_cmpxchg32 [r10-4], r1`, V204 `atomic_cmpxchg64
[r10-8], r1`. -/
theorem test_step_atomic_cmpxchg :
    memory (step (vector 0 [⟨0xc3, 0x1a, 0xfc, 0xff, 0xf1, 0x00, 0x00, 0x00⟩] [(0, 0xdeadbeef00000007), (1, 0x9)] [(0xfffc, 0x07), (0xfffd, 0x00), (0xfffe, 0x00), (0xffff, 0x00)])) =
      some [(0xfffc, 0x09), (0xfffd, 0x00), (0xfffe, 0x00), (0xffff, 0x00)] ∧
    result 0 (step (vector 0 [⟨0xc3, 0x1a, 0xfc, 0xff, 0xf1, 0x00, 0x00, 0x00⟩] [(0, 0xdeadbeef00000007), (1, 0x9)] [(0xfffc, 0x07), (0xfffd, 0x00), (0xfffe, 0x00), (0xffff, 0x00)])) =
      some (.value 0x7, 1) ∧
    memory (step (vector 0 [⟨0xc3, 0x1a, 0xfc, 0xff, 0xf1, 0x00, 0x00, 0x00⟩] [(0, 0xdeadbeef00000007), (1, 0x9)] [(0xfffc, 0x08), (0xfffd, 0x00), (0xfffe, 0x00), (0xffff, 0x00)])) =
      some [(0xfffc, 0x08), (0xfffd, 0x00), (0xfffe, 0x00), (0xffff, 0x00)] ∧
    result 0 (step (vector 0 [⟨0xc3, 0x1a, 0xfc, 0xff, 0xf1, 0x00, 0x00, 0x00⟩] [(0, 0xdeadbeef00000007), (1, 0x9)] [(0xfffc, 0x08), (0xfffd, 0x00), (0xfffe, 0x00), (0xffff, 0x00)])) =
      some (.value 0x8, 1) ∧
    memory (step (vector 0 [⟨0xdb, 0x1a, 0xf8, 0xff, 0xf1, 0x00, 0x00, 0x00⟩] [(0, 0x7), (1, 0x9)] [(0xfff8, 0x07), (0xfff9, 0x00), (0xfffa, 0x00), (0xfffb, 0x00), (0xfffc, 0x00), (0xfffd, 0x00), (0xfffe, 0x00), (0xffff, 0x00)])) =
      some [(0xfff8, 0x09), (0xfff9, 0x00), (0xfffa, 0x00), (0xfffb, 0x00), (0xfffc, 0x00), (0xfffd, 0x00), (0xfffe, 0x00), (0xffff, 0x00)] ∧
    result 0 (step (vector 0 [⟨0xdb, 0x1a, 0xf8, 0xff, 0xf1, 0x00, 0x00, 0x00⟩] [(0, 0x7), (1, 0x9)] [(0xfff8, 0x07), (0xfff9, 0x00), (0xfffa, 0x00), (0xfffb, 0x00), (0xfffc, 0x00), (0xfffd, 0x00), (0xfffe, 0x00), (0xffff, 0x00)])) =
      some (.value 0x7, 1) := by
  decide +kernel

/-- V223 `lddw r1, 0x1122334455667788`. -/
theorem test_step_lddw :
    result 1 (step (vector 0 [⟨0x18, 0x01, 0x00, 0x00, 0x88, 0x77, 0x66, 0x55⟩, ⟨0x00, 0x00, 0x00, 0x00, 0x44, 0x33, 0x22, 0x11⟩] [] [])) =
      some (.value 0x1122334455667788, 2) := by
  decide +kernel

/-! ### Calls, exit and the platform's 64-bit immediates -/

/-- The program of the call tests at its `call_local +2`: V142. -/
def callState (frames : List Frame) : State :=
  { vector 1 [⟨0x85, 0x10, 0x00, 0x00, 0x02, 0x00, 0x00, 0x00⟩] [(0, 1), (1, 5), (6, 0x64)] [] with
    callStack := frames }

/-- A frame of a caller at depth 0. -/
def someFrame : Frame := ⟨1, .noValue, .noValue, .noValue, .noValue, .value 0x10000⟩

theorem test_step_call_local :
    result 10 (step (callState [])) = some (.value 0xfe00, 4) ∧
    result 6 (step (callState [])) = some (.noValue, 4) ∧
    result 1 (step (callState [])) = some (.value 5, 4) ∧
    (nextState (step (callState []))).map (fun t => t.callStack) =
      some [⟨2, .value 0x64, .noValue, .noValue, .noValue, .value 0x10000⟩] := by
  decide +kernel

/-- V144. -/
theorem test_step_call_local_again :
    faultOf (step (callState (List.replicate 7 someFrame))) = some (.callDepth 1) ∧
    slotAfter (step (callState (List.replicate 6 someFrame))) = some 4 := by
  decide +kernel

/-- `exit` with R0 = 0x19 and one frame: V147. -/
def exitState (frames : List Frame) (rs : List (Reg × Word)) : State :=
  { vector 5 [⟨0x95, 0x00, 0x00, 0x00, 0x00, 0x00, 0x00, 0x00⟩] rs [] with callStack := frames }

theorem test_step_exit :
    statusAfter (step (exitState [] [(0, 0x37)])) = some (.exited 0x37) ∧
    faultOf (step (exitState [] [])) = some (.uninitRegister 5 0) := by
  decide +kernel

theorem test_step_exit_again :
    result 10 (step (exitState [someFrame] [(0, 0x19), (1, 5), (6, 1), (10, 0xfe00)])) =
      some (.value 0x10000, 1) ∧
    result 6 (step (exitState [someFrame] [(0, 0x19), (1, 5), (6, 1)])) = some (.noValue, 1) ∧
    result 1 (step (exitState [someFrame] [(0, 0x19), (1, 5), (6, 1)])) = some (.noValue, 1) ∧
    result 0 (step (exitState [someFrame] [(0, 0x19), (1, 5), (6, 1)])) = some (.value 0x19, 1) := by
  decide +kernel

/-- A written-out helper with one outcome on every call. -/
def oneOutcome (o : HelperOutcome) : Helper := .table [] ⟨o, []⟩

/-- `call_helper 1` where HELPERS maps 1 to `h`, which needs R1 and R2: V139. The platform's choice is
outcome 1. -/
def helperState (rs : List (Reg × Word)) (h : Helper) : State :=
  { vector 3 [⟨0x85, 0x00, 0x00, 0x00, 0x01, 0x00, 0x00, 0x00⟩] rs [(0x1000, 0x11)] with
    answers := [1]
    params := { Params.default with helpers := [⟨1, [0, 1], h⟩] } }

theorem test_step_call_helper :
    result 0 (step (helperState [(1, 2), (2, 3), (6, 7)]
      (oneOutcome (.returns ⟨5, [(0x1001, 0x22)], none⟩)))) = some (.value 5, 4) ∧
    result 2 (step (helperState [(1, 2), (2, 3), (6, 7)] (oneOutcome (.returns ⟨5, [], none⟩)))) =
      some (.noValue, 4) ∧
    memory (step (helperState [(1, 2), (2, 3)]
      (oneOutcome (.returns ⟨5, [(0x1001, 0x22)], none⟩)))) =
      some [(0x1000, 0x11), (0x1001, 0x22)] := by
  decide +kernel

theorem test_step_call_helper_again :
    faultOf (step (helperState [(1, 2)] (oneOutcome (.returns ⟨5, [], none⟩)))) =
      some (.uninitRegister 3 2) ∧
    faultOf (step (helperState [(1, 2), (2, 3)] (oneOutcome (.faults (.memAccess 0x10 4 .read))))) =
      some (.memAccess 3 0x10 4 .read) ∧
    faultOf (step (vector 3 [⟨0x85, 0x00, 0x00, 0x00, 0x07, 0x00, 0x00, 0x00⟩] [(1, 2)] [])) =
      some (.unknownHelper 3 7) := by
  decide +kernel

/-- A helper that returns 8 or 9 where R1 is 2, and 5 elsewhere. -/
def twoRows : Helper :=
  .table [⟨[some (.value 2)], ⟨.returns ⟨8, [], none⟩, [.returns ⟨9, [], none⟩]⟩⟩]
    ⟨.returns ⟨5, [], none⟩, []⟩

theorem test_step_call_helper_rows :
    result 0 (step (helperState [(1, 2), (2, 3)] twoRows)) = some (.value 9, 4) ∧
    result 0 (step (helperState [(1, 3), (2, 3)] twoRows)) = some (.value 5, 4) := by
  decide +kernel

/-- `call_btf 42` where HELPERS_BTF is the table: V141. -/
def btfState (table : List HelperEntry) : State :=
  { vector 3 [⟨0x85, 0x20, 0x00, 0x00, 0x2a, 0x00, 0x00, 0x00⟩] [] [] with
    params := { Params.default with helpersBtf := table } }

theorem test_step_call_btf :
    faultOf (step (btfState [])) = some (.unsupported 3 .callByBtfId) ∧
    result 0 (step { btfState [⟨42, [], oneOutcome (.returns ⟨9, [], none⟩)⟩] with
      answers := [0] }) = some (.value 9, 4) := by
  decide +kernel

/-- A 64-bit immediate of the subtype in `src_reg`, with `imm` 3 and `next_imm` 16, on a platform whose
functions are defined at 3, or, with `defined` false, nowhere. -/
def platformState (regs next : Byte) (defined : Bool) : State :=
  { vector 0 [⟨0x18, regs, 0x00, 0x00, 0x03, 0x00, 0x00, 0x00⟩,
      ⟨0x00, 0x00, 0x00, 0x00, next, 0x00, 0x00, 0x00⟩] [] [] with
    params := if defined then { Params.default with
      mapByFd := [(3, 0x5000)], mapByIdx := [(3, 0x6000)], mapVal := [(0x5000, 0x5100), (0x6000, 0x6100)],
      varAddr := [(3, 0x7000)], codeAddr := [((0, 3), 0x8000)] } else Params.default }

theorem test_step_platform_loads :
    result 1 (step (platformState 0x11 0 true)) = some (.value 0x5000, 2) ∧
    result 1 (step (platformState 0x21 16 true)) = some (.value 0x5110, 2) ∧
    result 1 (step (platformState 0x31 0 true)) = some (.value 0x7000, 2) ∧
    result 1 (step (platformState 0x41 0 true)) = some (.value 0x8000, 2) ∧
    result 1 (step (platformState 0x51 0 true)) = some (.value 0x6000, 2) ∧
    result 1 (step (platformState 0x61 16 true)) = some (.value 0x6110, 2) := by
  decide +kernel

/-- V227 to V232. -/
theorem test_step_platform_loads_again :
    faultOf (step (platformState 0x11 0 false)) = some (.unsupported 0 .mapByFd) ∧
    faultOf (step (platformState 0x21 16 false)) = some (.unsupported 0 .mapVal) ∧
    faultOf (step (platformState 0x31 0 false)) = some (.unsupported 0 .varAddr) ∧
    faultOf (step (platformState 0x41 0 false)) = some (.unsupported 0 .codeAddr) ∧
    faultOf (step (platformState 0x51 0 false)) = some (.unsupported 0 .mapByIdx) ∧
    faultOf (step (platformState 0x61 16 false)) = some (.unsupported 0 .mapVal) := by
  decide +kernel

/-- V172, V175, V176, V179, V209, V212: the faults of an access, strict and bytewise. -/
theorem test_step_access_faults :
    faultOf (step (vector 0 [⟨0x61, 0xa0, 0xfa, 0xff, 0, 0, 0, 0⟩] [] [])) =
      some (.misaligned 0 0xfffa 4) ∧
    faultOf (step (vector 0 [⟨0x61, 0xa0, 0x00, 0x00, 0, 0, 0, 0⟩] [] [])) =
      some (.memAccess 0 0x10000 4 .read) ∧
    faultOf (step (vector 0 [⟨0x7b, 0x1a, 0xf8, 0xef, 0, 0, 0, 0⟩] [(1, 1)] [])) =
      some (.memAccess 0 0xeff8 8 .write) ∧
    faultOf (step (bytewise (vector 0 [⟨0x79, 0x10, 0x00, 0x00, 0, 0, 0, 0⟩]
      [(1, 0xfffffffffffffffc)] []))) = some (.memAccess 0 0xfffffffffffffffc 8 .read) ∧
    faultOf (step (bytewise (vector 0 [⟨0xc3, 0x1a, 0xfa, 0xff, 0, 0, 0, 0⟩] [(1, 1)] []))) =
      some (.misaligned 0 0xfffa 4) ∧
    faultOf (step (vector 0 [⟨0xdb, 0x21, 0x00, 0x00, 0xf1, 0, 0, 0⟩]
      [(0, 5), (1, 0x3000), (2, 1)] [])) = some (.memAccess 0 0x3000 8 .write) := by
  decide +kernel

/-! ### Witnesses: the hypotheses of each obligation can be met

Each theorem gives a concrete state and operands that meet the hypotheses of the obligation it names, a
clause with hypotheses of its own at a boundary of its range. -/

/-- R0 = 7, R1 = 5, R2 = 0x1000, R4 = 0x1122334455667788, R3 without value; `pc` is 1; the wide
instruction `lddw r1, 0` stands in slots 2 and 3; memory spells 0x1122334455667788 at 0x1000. -/
def sample : State :=
  vector 1 [filler, ⟨0x18, 0x01, 0, 0, 0, 0, 0, 0⟩, ⟨0, 0, 0, 0, 0, 0, 0, 0⟩]
    [(0, 7), (1, 5), (2, 0x1000), (4, 0x1122334455667788)]
    [(0x1000, 0x88), (0x1001, 0x77), (0x1002, 0x66), (0x1003, 0x55), (0x1004, 0x44),
      (0x1005, 0x33), (0x1006, 0x22), (0x1007, 0x11)]

theorem allIn_of_covered {rs : List AddrRange} {a n : Nat} (h : covered rs a n = true) :
    AllIn rs a n := covered_iff.1 h

theorem not_allIn_of_covered {rs : List AddrRange} {a n : Nat} (h : covered rs a n = false) :
    ¬AllIn rs a n := fun h' => by rw [covered_iff.2 h'] at h; cases h

theorem witness_DecodeOfEncode :
    (Instr.lddw 9 0xffffffff 0xffffffff).wellFormed = true ∧
    (Instr.lddw 9 0xffffffff 0xffffffff).implemented [] = true ∧
    (Instr.atomicXchg32 10 0x8000 9).wellFormed = true ∧
    (Instr.atomicXchg32 10 0x8000 9).implemented [.atomic32] = true := by decide

/-- A word whose every field counts, and one whose `src_reg` is ignored. -/
theorem witness_DecodedWordIsEncoding :
    decode .be [] ⟨0x0f, 0x12, 0, 0, 0, 0, 0, 0⟩ none = .ok (.add64 1 (.reg 2)) ∧
    (Instr.add64 1 (.reg 2)).ignoresSrcField = false ∧
    decode .le [] ⟨0x15, 0xf1, 2, 0, 5, 0, 0, 0⟩ none = .ok (.jeq64 1 (.imm 5) 2) ∧
    (Instr.jeq64 1 (.imm 5) 2).ignoresSrcField = true := ⟨rfl, rfl, rfl, rfl⟩

theorem witness_IgnoredSourceField : (Instr.jsle32 9 (.imm 0) 0).ignoresSrcField = true := rfl

theorem witness_UndefinedOpcodesIllegal :
    (0x00 : Byte) ∉ definedOpcodes ∧ ¬LegacyOpcode 0x00 ∧ (0xff : Byte) ∉ definedOpcodes ∧
    ¬LegacyOpcode 0xff ∧ (0x18 : Byte) ∈ definedOpcodes := by
  unfold LegacyOpcode; decide

/-- The first and the last legacy opcode bytes. -/
theorem witness_LegacyModesUnsupported :
    (∃ a, (vector 0 [⟨0x20, 0, 0, 0, 0, 0, 0, 0⟩] [] []).program[0]? = some a ∧ LegacyOpcode a.b0) ∧
    (∃ a, (vector 39 [⟨0x5b, 0xff, 9, 9, 9, 9, 9, 9⟩] [] []).program[39]? = some a ∧
      LegacyOpcode a.b0) ∧
    (vector 0 [⟨0x20, 0, 0, 0, 0, 0, 0, 0⟩] [] []).status = .running :=
  ⟨⟨_, rfl, by unfold LegacyOpcode; decide⟩, ⟨_, rfl, by unfold LegacyOpcode; decide⟩, rfl⟩

/-- Opcode 0x18 in the last slot, opcode 0x18 before a slot with one reserved bit set, and opcode 0x00. -/
theorem witness_WideNeedsItsSecondSlot :
    (∃ a, (vector 39 [⟨0x18, 1, 0, 0, 0, 0, 0, 0⟩] [] []).program[39]? = some a ∧ a.b0 = 0x18 ∧
      39 + 1 = (vector 39 [⟨0x18, 1, 0, 0, 0, 0, 0, 0⟩] [] []).program.length) ∧
    (∃ a b, (vector 0 [⟨0x18, 1, 0, 0, 0, 0, 0, 0⟩, ⟨0, 0, 0, 0x80, 0, 0, 0, 0⟩] [] []).program[0]? =
        some a ∧ a.b0 = 0x18 ∧
      (vector 0 [⟨0x18, 1, 0, 0, 0, 0, 0, 0⟩, ⟨0, 0, 0, 0x80, 0, 0, 0, 0⟩] [] []).program[1]? =
        some b ∧ ¬(b.b0 = 0 ∧ b.b1 = 0 ∧ b.b2 = 0 ∧ b.b3 = 0)) ∧
    (∃ a, (vector 0 [zeroSlot] [] []).program[0]? = some a ∧ a.b0 = 0x00) :=
  ⟨⟨_, rfl, rfl, rfl⟩, ⟨_, _, rfl, rfl, rfl, by decide⟩, ⟨_, rfl, rfl⟩⟩

/-- `dst_reg` 11, `src_reg` 11 that is used, `src_reg` 15 that is ignored. -/
theorem witness_RegisterNumbersChecked :
    ¬LegacyOpcode 0xbf ∧ ¬LegacyOpcode 0x15 ∧
    (Slot.fields .le ⟨0xbf, 0x0b, 0, 0, 0, 0, 0, 0⟩).dst.toNat = 11 ∧
    (Slot.fields .le ⟨0xbf, 0xb1, 0, 0, 0, 0, 0, 0⟩).src.toNat = 11 ∧
    (Slot.fields .le ⟨0x15, 0xf1, 2, 0, 5, 0, 0, 0⟩).src.toNat = 15 := by
  unfold LegacyOpcode; decide

/-- A word that would write R10, and a step that reads it. -/
theorem witness_FramePointerReadOnly :
    (Instr.mov64 10 (.imm 5)).writes = some Reg.fp ∧
    (vector 0 [(Instr.mov64 10 (.imm 5)).fields.toSlot .le] [] []).program[0]? =
      some ((Instr.mov64 10 (.imm 5)).fields.toSlot .le) ∧
    (Instr.atomicCmpxchg64 1 0 10).writes ≠ some Reg.fp ∧
    fetch (vector 0 [(Instr.mov64 1 (.reg 10)).fields.toSlot .le] [] []) =
      .ok (.mov64 1 (.reg 10)) ∧
    ∃ t, step (vector 0 [(Instr.mov64 1 (.reg 10)).fields.toSlot .le] [] []) = .next t :=
  ⟨rfl, rfl, by decide, rfl, next_of_isSome (by decide +kernel)⟩

theorem witness_GroupsNotImplemented :
    Group.atomic32 ∉ [Group.atomic64] ∧ Group.atomic64 ∉ [Group.base32] ∧
    (Slot.fields .le ⟨0xd4, 1, 0, 0, 64, 0, 0, 0⟩).imm = 64 ∧ Group.base64 ∉ [Group.base32] ∧
    (Slot.fields .le ⟨0xd7, 1, 0, 0, 16, 0, 0, 0⟩).imm ≠ 64 ∧ Group.base32 ∉ [Group.base64] := by
  decide

/-- Also of ProgramNeverChanges. -/
theorem witness_StepRunsTheDecodedInstruction :
    sample.status = .running ∧ sample.program[sample.pc]? = some filler ∧
    decode sample.params.hostEndian sample.params.groups filler sample.program[sample.pc + 1]? =
      .ok (.mov64 0 (.imm 0)) ∧ ∃ t, step sample = .next t :=
  ⟨rfl, rfl, rfl, next_of_isSome (by decide +kernel)⟩

/-- `pc` at N and past it, and a slot that spells no instruction. -/
theorem witness_FetchFaults :
    ({ sample with pc := 40 } : State).program.length = 40 ∧
    ({ sample with pc := 40 } : State).status = .running ∧
    (vector 0 [zeroSlot] [] []).program[0]? = some zeroSlot ∧
    decode .le Params.default.groups zeroSlot (some filler) = .error .illegalEncoding :=
  ⟨rfl, rfl, rfl, rfl⟩

theorem witness_InvariantAtStart :
    Memory.wf [(0, 1), (0xffffffffffffffff, 2)] = true ∧
    framePointer Params.default 0 = Params.default.fp0 := by decide +kernel

/-- A running function at depth 1, at its `exit`: the invariant holds and the step goes on. -/
def inFunction : State := exitState [someFrame] [(0, 0x19), (10, 0xfe00)]

theorem witness_StepKeepsInvariant : Inv inFunction ∧ ∃ t, step inFunction = .next t :=
  ⟨⟨by decide, ⟨by decide, by decide +kernel⟩, .inr (by decide), by decide +kernel,
    ⟨⟨by decide, by decide +kernel⟩, by decide +kernel, trivial⟩⟩,
    next_of_isSome (by decide +kernel)⟩

theorem witness_EndedRunsStayEnded :
    ({ sample with status := .exited 5 } : State).status = .exited 5 ∧
    (sample.faulted (.callDepth 1)).status = .faulted (.callDepth 1) := ⟨rfl, rfl⟩

theorem witness_OnlyTheOutermostExitEndsARun :
    (exitState [] [(0, 0x37)]).status = .running ∧
    ∃ t, step (exitState [] [(0, 0x37)]) = .next t ∧ t.status ≠ .running := by
  refine ⟨rfl, ?_⟩
  obtain ⟨t, ht⟩ := next_of_isSome (o := step (exitState [] [(0, 0x37)])) (by decide +kernel)
  have h : statusAfter (step (exitState [] [(0, 0x37)])) = some (.exited 0x37) := by decide +kernel
  rw [ht] at h
  have hs : t.status = .exited 0x37 := Option.some.inj h
  exact ⟨t, ht, by rw [hs]; decide⟩

/-- Slot 4 holds `mov64 r0, 0`, slot 5 `exit`. -/
theorem witness_ResultIsFinal : Returns { exitState [] [] with pc := 4 } 0 := by
  obtain ⟨t, ht⟩ := next_of_isSome (o := run 2 { exitState [] [] with pc := 4 }) (by decide +kernel)
  have h : statusAfter (run 2 { exitState [] [] with pc := 4 }) = some (.exited 0) := by
    decide +kernel
  rw [ht] at h
  exact ⟨2, t, ht, Option.some.inj h⟩

theorem witness_MemoryChangesOnlyByStores :
    (∃ t, exec (.callLocal 8) sample = .next t) ∧ (Instr.callLocal 8).family = .localCall ∧
    ∃ t, exec (.ldxdw 1 2 0) sample = .next t :=
  ⟨next_of_isSome (by decide +kernel), rfl, next_of_isSome (by decide +kernel)⟩

/-- `stxdw [r10-8], r1` at slot 0. -/
def storing : State := vector 0 [⟨0x7b, 0x1a, 0xf8, 0xff, 0, 0, 0, 0⟩] [(1, 5)] []

theorem witness_WritesStayInWritable :
    (∃ t, step storing = .next t) ∧ (∀ i, fetch storing = .ok i → i.family ≠ .helperCall) ∧
    ¬InRanges storing.memMap.writable 0xefff ∧ ¬InRanges storing.memMap.writable 0x10000 := by
  refine ⟨next_of_isSome (by decide +kernel), ?_, ?_, ?_⟩
  · intro i h
    have hf : fetch storing = .ok (.stxdw 10 0xfff8 1) := rfl
    rw [hf] at h
    cases h
    decide
  · rintro ⟨r, hr, h⟩
    simp [storing, vector, vectorMap] at hr
    rcases hr with rfl | rfl <;> simp at h
  · rintro ⟨r, hr, h⟩
    simp [storing, vector, vectorMap] at hr
    rcases hr with rfl | rfl <;> simp at h

/-- Two states that differ in the byte at 0x9000, which is not readable. -/
theorem witness_UnreadableMemoryIsInvisible :
    AgreeOnReadable { storing with mem := [(0x9000, 1)] } { storing with mem := [(0x9000, 2)] } ∧
    fetch { storing with mem := [(0x9000, 1)] } = .ok (.stxdw 10 0xfff8 1) ∧
    (Instr.stxdw 10 0xfff8 1).family ≠ .helperCall ∧
    ({ storing with mem := [(0x9000, 1)] } : State).byteAt 0x9000 ≠
      ({ storing with mem := [(0x9000, 2)] } : State).byteAt 0x9000 := by
  refine ⟨⟨rfl, rfl, rfl, rfl, rfl, rfl, rfl, rfl, rfl, ?_⟩, rfl, by decide, by decide +kernel⟩
  rintro x ⟨r, hr, h⟩
  have hx : x ≠ 0x9000 := by
    simp [storing, vector, vectorMap] at hr
    rcases hr with rfl | rfl | rfl <;> simp at h <;> omega
  simp [State.byteAt, Memory.get, hx]

theorem witness_OnlyHelpersAreRefused :
    step (helperState [(1, 2), (2, 3)] (oneOutcome .leaves)) = .refused .helperDoesNotReturn := rfl

/-- A fault of a running machine, one raised inside a helper. -/
theorem witness_FaultsCarryPc :
    step (exitState [] []) = .fault (.uninitRegister 5 0) ∧ (exitState [] []).status = .running ∧
    step (helperState [(1, 2), (2, 3)] (oneOutcome (.faults (.memAccess 0x10 4 .read)))) =
      .fault (.memAccess 3 0x10 4 .read) :=
  ⟨fault_of_faultOf (by decide +kernel), rfl, fault_of_faultOf (by decide +kernel)⟩

/-- One fault of each family. -/
theorem witness_FaultsOfEachFamily :
    faultOf (exec (.add64 3 (.imm 1)) sample) = some (.uninitRegister 1 3) ∧
    faultOf (exec (.ja 1) sample) = some (.jumpIntoWide 1 3) ∧
    faultOf (exec (.ldxdw 1 2 1) sample) = some (.misaligned 1 0x1001 8) ∧
    faultOf (exec (.stxb 1 0 1) sample) = some (.memAccess 1 5 1 .write) ∧
    faultOf (exec (.atomicAdd32 2 2 1) sample) = some (.misaligned 1 0x1002 4) ∧
    faultOf (exec (.atomicCmpxchg32 2 2 1) sample) = some (.misaligned 1 0x1002 4) ∧
    faultOf (exec (.callLocal 38) sample) = some (.pcOutOfRange 1 40) ∧
    faultOf (exec .exit (exitState [] [])) = some (.uninitRegister 5 0) ∧
    faultOf (exec (.ldMapFd 1 3) sample) = some (.unsupported 1 .mapByFd) := by
  decide +kernel

/-- Of AddSubMul, BitwiseOps, UnsignedDivMod, SignedDivMod, Shifts, NegMov, SignExtendingMoves and
ByteSwaps: a destination with a value, source operands of both kinds, and registers without one. -/
theorem witness_AddSubMul :
    sample.reg 1 = .value 5 ∧ Source64 sample (.reg 2) 0x1000 ∧
    Source64 sample (.imm 0xffffffff) 0xffffffffffffffff ∧ Source32 sample (.reg 2) 0x1000 ∧
    Source32 sample (.imm 0xffffffff) 0xffffffff ∧ sample.reg 3 = .noValue ∧
    SourceMissing sample (.reg 3) 3 :=
  ⟨rfl, rfl, rfl, ⟨0x1000, rfl, rfl⟩, rfl, rfl, rfl, rfl⟩

theorem witness_ShiftsAsArithmetic :
    sample.reg 1 = .value 5 ∧ sample.params.shiftMask64 = 0x3f ∧
    sample.params.shiftMask32 = 0x1f ∧ Source64 sample (.imm 64) 64 ∧
    Source32 sample (.reg 1) 5 := ⟨rfl, rfl, rfl, rfl, 5, rfl, rfl⟩

theorem witness_SwapReversesBytes :
    bswapN (0x1122334455667788 : BitVec 64) = 0x8877665544332211 ∧
    bswapN (0x1122 : BitVec 16) = 0x2211 := by decide +kernel

theorem witness_RegisterResultFrame :
    (∃ t, exec (.mul32 1 (.reg 2)) sample = .next t) ∧ (∃ t, exec (.ldxsh 3 2 6) sample = .next t) ∧
    (∃ t, exec (.lddw 9 1 2) sample = .next t) ∧ (Instr.mul32 1 (.reg 2)).family = .arithmetic ∧
    (Instr.ldxsh 3 2 6).family = .load ∧ (Instr.lddw 9 1 2).family = .imm64 :=
  ⟨next_of_isSome (by decide +kernel), next_of_isSome (by decide +kernel),
    next_of_isSome (by decide +kernel), rfl, rfl, rfl⟩

/-- An ALU instruction, a byte swap of class ALU64, a FETCH form of 32 bits, and CMPXCHG. -/
theorem witness_NarrowResultsZeroTheUpperHalf :
    (∃ t, exec (.neg32 4) sample = .next t) ∧ (Instr.neg32 4).fields.cls = clsAlu32 ∧
    (Instr.neg32 4).group ≠ some .base64 ∧
    (∃ t, exec (.bswap16 4) sample = .next t) ∧ (Instr.bswap16 4).group = some .base32 ∧
    (∃ t, exec (.atomicXchg32 2 4 4) sample = .next t) ∧
    (Instr.atomicXchg32 2 4 4).group = some .atomic32 ∧
    (∃ t, exec (.atomicCmpxchg32 2 4 4) sample = .next t) ∧
    (Instr.atomicCmpxchg32 2 4 4).group = some .atomic32 :=
  ⟨next_of_isSome (by decide +kernel), rfl, by decide, next_of_isSome (by decide +kernel), rfl,
    next_of_isSome (by decide +kernel), rfl, next_of_isSome (by decide +kernel), rfl⟩

/-- The clauses of `SetPc` in `sample`: targets -1 and 40, the second slot 3, and slots 0, 2, 39. Of
UnconditionalJumps, Jumps64, Jumps32 and LocalCall. -/
theorem witness_UnconditionalJumps :
    (sample.pc : Int) + 1 + (0xfffd : BitVec 16).toInt = -1 ∧
    (sample.pc : Int) + 1 + (38 : BitVec 16).toInt = 40 ∧ sample.program.length = 40 ∧
    (sample.pc : Int) + 1 + (1 : BitVec 16).toInt = (3 : Nat) ∧
    secondSlot sample.program 3 = true ∧
    (sample.pc : Int) + 1 + (0xfffffffe : BitVec 32).toInt = (0 : Nat) ∧
    secondSlot sample.program 0 = false ∧ secondSlot sample.program 2 = false ∧
    secondSlot sample.program 39 = false := by decide +kernel

theorem witness_SecondSlotsBySweep :
    3 < sample.program.length ∧ secondSlot sample.program 3 = true ∧
    39 < sample.program.length ∧ secondSlot sample.program 39 = false := by decide +kernel

/-- A condition that holds and one that does not, on operands that hold values: of Jumps64 and, with
the low halves, of Jumps32. -/
theorem witness_Jumps64 :
    sample.reg 1 = .value 5 ∧ Source64 sample (.reg 2) 0x1000 ∧ Source32 sample (.imm 5) 5 ∧
    (5 : Word) ≠ 0x1000 ∧ ((5 : Word).extractLsb' 0 32 = 5) ∧ SourceMissing sample (.reg 3) 3 :=
  ⟨rfl, rfl, rfl, by decide, by decide, rfl, rfl⟩

theorem witness_JumpFrame :
    (∃ t, exec (.ja32 0xfffffffe) sample = .next t) ∧ (Instr.ja32 0xfffffffe).family = .jump ∧
    ∃ t, exec (.jeq64 1 (.reg 2) 1) sample = .next t :=
  ⟨next_of_isSome (by decide +kernel), rfl, next_of_isSome (by decide +kernel)⟩

/-- An id not offered, a needed argument missing after one present, each kind of outcome, and a helper
whose every outcome is a `Return`. -/
theorem witness_HelperCalls :
    (∀ h ∈ (helperState [] twoRows).params.helpers, h.id ≠ 7) ∧
    (helperState [] twoRows).params.helpers.find? (fun x => x.id == 1) = some ⟨1, [0, 1], twoRows⟩ ∧
    ([0, 1] : List (Fin 5)) = [0] ++ 1 :: [] ∧
    ArgsPresent (helperState [(1, 2)] twoRows) [0] ∧
    (helperState [(1, 2)] twoRows).reg (argReg 1) = .noValue ∧
    ArgsPresent (helperState [(1, 2), (2, 3)] twoRows) [0, 1] ∧
    (∀ (o : HelperOutcome) (c : HelperCall), GivesOutcome (oneOutcome o) c o) ∧
    (∀ o, GivesOutcome twoRows (helperCall (helperState [(1, 2), (2, 3)] twoRows)) o →
      ∃ r, o = .returns r) := by
  refine ⟨by decide, rfl, rfl, ?_, rfl, ?_, fun _ _ => .inr ⟨nofun, .inl rfl⟩, ?_⟩
  · exact missingArg_none.1 (by decide +kernel)
  · exact missingArg_none.1 (by decide +kernel)
  · rintro o (⟨before, r, after, hr, -, -, ho⟩ | ⟨-, rfl | ho⟩)
    · have hm : r ∈ [(⟨[some (.value 2)], ⟨.returns ⟨8, [], none⟩, [.returns ⟨9, [], none⟩]⟩⟩ :
        HelperCase)] := by
        rw [hr]
        exact List.mem_append_right _ List.mem_cons_self
      obtain rfl := List.mem_singleton.1 hm
      rcases ho with rfl | ho
      · exact ⟨_, rfl⟩
      · exact ⟨_, List.mem_singleton.1 ho⟩
    · exact ⟨_, rfl⟩
    · cases ho

theorem witness_HelperFrame :
    (∃ t, exec (.callHelper 1) (helperState [(1, 2), (2, 3)] twoRows) = .next t) ∧
    (Instr.callHelper 1).family = .helperCall := ⟨⟨_, rfl⟩, rfl⟩

/-- The depths about MAX_CALL_DEPTH, and a target of each kind (`witness_UnconditionalJumps`). -/
theorem witness_LocalCall :
    (callState (List.replicate 7 someFrame)).callStack.length + 2 >
      (callState (List.replicate 7 someFrame)).params.maxCallDepth ∧
    (callState (List.replicate 6 someFrame)).callStack.length + 2 ≤
      (callState (List.replicate 6 someFrame)).params.maxCallDepth ∧
    ((callState []).pc : Int) + 1 + (0xfffffffd : BitVec 32).toInt < 0 ∧
    ((callState []).pc : Int) + 1 + (37 : BitVec 32).toInt = (39 : Nat) ∧
    (callState []).program.length = 40 ∧ secondSlot (callState []).program 39 = false := by
  decide +kernel

theorem witness_Exit :
    (exitState [] []).reg 0 = .noValue ∧ (exitState [] [(0, 0x37)]).reg 0 = .value 0x37 ∧
    (exitState [] [(0, 0x37)]).callStack = [] ∧ inFunction.callStack = someFrame :: [] :=
  ⟨rfl, rfl, rfl, rfl⟩

theorem witness_CallThenExit :
    ∃ t, exec (.callLocal 2) (callState []) = .next t ∧
      ({ exitState [] [(0, 0x19)] with callStack := t.callStack } : State).reg 0 = .value 0x19 := by
  obtain ⟨t, ht⟩ := next_of_isSome (o := exec (.callLocal 2) (callState [])) (by decide +kernel)
  exact ⟨t, ht, rfl⟩

theorem witness_FramesAreDisjoint :
    Params.default.frameLayout = .descending ∧
    Params.default.maxCallDepth * Params.default.stackSize ≤ Params.default.fp0.toNat ∧
    7 < Params.default.maxCallDepth := by decide

/-- Widths 1 and 8 at 0x1000; and each failing check: past the top, misaligned under the strict policy,
outside `Readable`, the last also at the very top, where the access still fits. -/
theorem witness_Loads :
    sample.reg 2 = .value 0x1000 ∧ sample.reg 3 = .noValue ∧
    PlainAllowed sample sample.memMap.readable 0x1000 8 ∧
    Spells sample 0x1000 (0x1122334455667788 : BitVec 64) ∧
    PlainAllowed sample sample.memMap.readable 0x1007 1 ∧ Spells sample 0x1007 (0x11 : BitVec 8) ∧
    2 ^ 64 < (0xfffffffffffffff9 : Word).toNat + 8 ∧
    ¬AlignedFor sample 0x1004 8 ∧ AlignedFor (bytewise sample) 0x1004 8 ∧
    (AlignedFor sample 0x10f8 8 ∧ AlignedFor sample 0x1100 8 ∧
      ¬AllIn sample.memMap.readable 0x1100 8) ∧
    ((0xfffffffffffffff8 : Word).toNat + 8 ≤ 2 ^ 64 ∧ AlignedFor sample 0xfffffffffffffff8 8 ∧
      ¬AllIn sample.memMap.readable (0xfffffffffffffff8 : Word).toNat 8) := by
  refine ⟨rfl, rfl, ⟨by decide, .inr (by decide), allIn_of_covered (by decide +kernel)⟩, ?_,
    ⟨by decide, .inr (by decide), allIn_of_covered (by decide +kernel)⟩, ?_, by decide, ?_,
    .inl rfl, ⟨.inr (by decide), .inr (by decide), not_allIn_of_covered (by decide +kernel)⟩,
    by decide, .inr (by decide), not_allIn_of_covered (by decide +kernel)⟩
  · exact (spells_iff_eq_loadValue _ _ rfl _).2 (by decide +kernel)
  · exact (spells_iff_eq_loadValue _ _ rfl _).2 (by decide +kernel)
  · rintro (h | h)
    · cases h
    · revert h; decide

/-- As `witness_Loads`, with a read-only address outside `Writable`. -/
theorem witness_Stores :
    sample.reg 2 = .value 0x1000 ∧ sample.reg 1 = .value 5 ∧ sample.reg 3 = .noValue ∧
    PlainAllowed sample sample.memMap.writable 0x1000 8 ∧
    2 ^ 64 < (0xfffffffffffffffd : Word).toNat + 4 ∧ ¬AlignedFor sample 0x1002 4 ∧
    AlignedFor sample 0x3000 4 ∧ ¬AllIn sample.memMap.writable 0x3000 4 := by
  refine ⟨rfl, rfl, rfl, ⟨by decide, .inr (by decide), allIn_of_covered (by decide +kernel)⟩,
    by decide, ?_, .inr (by decide), not_allIn_of_covered (by decide +kernel)⟩
  rintro (h | h)
  · cases h
  · revert h; decide

theorem witness_MemoryFrame :
    (∃ t, exec (.stxw 2 4 1) sample = .next t) ∧
    (Instr.stxw 2 4 1).memOperand = some ⟨2, 4, 4⟩ ∧ (Instr.stxw 2 4 1).family = .store ∧
    (∃ t, exec (.atomicXchg64 2 0 1) sample = .next t) ∧
    (Instr.atomicXchg64 2 0 1).memOperand = some ⟨2, 0, 8⟩ ∧
    (∃ t, exec (.atomicCmpxchg64 2 0 1) sample = .next t) ∧
    (Instr.atomicCmpxchg64 2 0 1).family = .compareExchange :=
  ⟨next_of_isSome (by decide +kernel), rfl, rfl, next_of_isSome (by decide +kernel), rfl,
    next_of_isSome (by decide +kernel), rfl⟩

/-- Every width at 0x1000, readable and writable; of MixedWidthAccess too. -/
theorem witness_StoreThenLoad :
    sample.reg 2 = .value 0x1000 ∧ sample.reg 1 = .value 5 ∧
    ∀ n ∈ [1, 2, 4, 8], PlainAllowed sample sample.memMap.writable (0x1000 + (0 : BitVec 16).signExtend 64) n ∧
      PlainAllowed sample sample.memMap.readable (0x1000 + (0 : BitVec 16).signExtend 64) n := by
  refine ⟨rfl, rfl, fun n hn => ?_⟩
  simp only [List.mem_cons, List.not_mem_nil, or_false] at hn
  rcases hn with rfl | rfl | rfl | rfl <;>
    exact ⟨⟨by decide, .inr (by decide), allIn_of_covered (by decide +kernel)⟩,
      ⟨by decide, .inr (by decide), allIn_of_covered (by decide +kernel)⟩⟩

theorem witness_MixedWidthAccess :
    ∃ t, PlainAllowed sample sample.memMap.readable 0x1000 8 ∧ (0x1000 : Word).toNat % 8 = 0 ∧
      memWrite sample 0x1000 (0x1122334455667788 : BitVec 64) = .ok t :=
  ⟨_, ⟨by decide, .inr (by decide), allIn_of_covered (by decide +kernel)⟩, by decide,
    memWrite_ok.2 ⟨by decide, fun _ => by decide, by decide +kernel, rfl⟩⟩

/-- Operands, an allowed access, and each failing check: misaligned, not readable, read-only. Of
AtomicFetches too. -/
theorem witness_AtomicUpdates :
    sample.reg 2 = .value 0x1000 ∧ sample.reg 1 = .value 5 ∧ sample.reg 3 = .noValue ∧
    AtomicAllowed sample 0x1000 8 ∧ Spells sample 0x1000 (0x1122334455667788 : BitVec 64) ∧
    AtomicAllowed sample 0x1004 4 ∧ Spells sample 0x1004 (0x11223344 : BitVec 32) ∧
    (0x1004 : Word).toNat % 8 ≠ 0 ∧
    ((0x1100 : Word).toNat % 8 = 0 ∧ ¬AllIn sample.memMap.readable 0x1100 8) ∧
    ((0x30f8 : Word).toNat % 8 = 0 ∧ AllIn sample.memMap.readable 0x30f8 8 ∧
      ¬AllIn sample.memMap.writable 0x30f8 8) :=
  ⟨rfl, rfl, rfl,
    ⟨by decide, by decide, allIn_of_covered (by decide +kernel), allIn_of_covered (by decide +kernel)⟩,
    (spells_iff_eq_loadValue _ _ rfl _).2 (by decide +kernel),
    ⟨by decide, by decide, allIn_of_covered (by decide +kernel), allIn_of_covered (by decide +kernel)⟩,
    (spells_iff_eq_loadValue _ _ rfl _).2 (by decide +kernel), by decide,
    ⟨by decide, not_allIn_of_covered (by decide +kernel)⟩,
    by decide, allIn_of_covered (by decide +kernel), not_allIn_of_covered (by decide +kernel)⟩

/-- R0 without value, R0 that matches the low half of memory, and R0 that does not; the access is that of
`witness_AtomicUpdates`. -/
theorem witness_CompareExchange :
    storing.reg 0 = .noValue ∧ storing.reg 10 = .value 0x10000 ∧ storing.reg 1 = .value 5 ∧
    sample.reg 0 = .value 7 ∧ (0x11223344 : BitVec 32) ≠ (7 : Word).extractLsb' 0 32 ∧
    (sample.writeReg 0 0xdeadbeef11223344).reg 0 = .value 0xdeadbeef11223344 ∧
    (0x11223344 : BitVec 32) = (0xdeadbeef11223344 : Word).extractLsb' 0 32 := by
  refine ⟨rfl, rfl, rfl, rfl, by decide, rfl, by decide⟩

/-- A platform function that is defined, one that is not, and a word with a `next_imm` it must not
have. -/
theorem witness_PlatformLoads :
    (platformState 0x11 0 true).params.mapByFd.lookup 3 = some 0x5000 ∧
    (platformState 0x11 0 false).params.mapByFd.lookup 3 = none ∧
    (platformState 0x11 0 true).params.codeAddr.lookup (0, 3) = some 0x8000 ∧
    (Slot.fields .le ⟨0x18, 0x51, 0, 0, 3, 0, 0, 0⟩).src = 5 ∧
    (Slot.fields .le ⟨0, 0, 0, 0, 0, 0, 0, 0x80⟩).imm ≠ 0 := by decide +kernel

end Sys2Proof.Machine
end

