-- ==== Sys2Proof/Proofs/ByteSwap.lean ====
section
/-! The byte swap of 00_scope.md R10 as a reversal of the list of bytes (`leBytes_bswapN`), from
which the place of each byte and the involution follow at every width of whole bytes. -/

namespace Sys2Proof.Machine

variable {w : Nat}

theorem pow_256_bytes (hw : w / 8 * 8 = w) : 256 ^ (w / 8) = 2 ^ w := by
  rw [show (256 : Nat) = 2 ^ 8 from rfl, ← Nat.pow_mul, Nat.mul_comm, hw]

/-- The reversed bytes spell a number that fits the width, so the wrap of `bswapN` loses nothing. -/
theorem toNat_bswapN (hw : w / 8 * 8 = w) (v : BitVec w) :
    (bswapN v).toNat = leValue (leBytes (w / 8) v.toNat).reverse := by
  have hlt := leValue_lt (leBytes (w / 8) v.toNat).reverse
  rw [List.length_reverse, leBytes_length, pow_256_bytes hw] at hlt
  rw [bswapN, BitVec.toNat_ofNat, Nat.mod_eq_of_lt hlt]

/-- The bytes of the swapped value are the bytes of the value in reverse order. -/
theorem leBytes_bswapN (hw : w / 8 * 8 = w) (v : BitVec w) :
    leBytes (w / 8) (bswapN v).toNat = (leBytes (w / 8) v.toNat).reverse := by
  simpa only [List.length_reverse, leBytes_length, ← toNat_bswapN hw v] using
    leBytes_leValue (leBytes (w / 8) v.toNat).reverse

/-- Entry `k` of the bytes of a value, as the bits it holds. -/
theorem leBytes_toNat_getElem (n : Nat) (v : BitVec w) {k : Nat}
    (hk : k < (leBytes n v.toNat).length) :
    (leBytes n v.toNat)[k] = v.extractLsb' (8 * k) 8 := by
  rw [leBytes_getElem, ofNat_byte_eq_extract]

theorem extract_byte_bswapN (hw : w / 8 * 8 = w) (v : BitVec w) {k : Nat} (hk : k < w / 8) :
    (bswapN v).extractLsb' (8 * k) 8 = v.extractLsb' (8 * (w / 8 - 1 - k)) 8 := by
  calc (bswapN v).extractLsb' (8 * k) 8
      = (leBytes (w / 8) (bswapN v).toNat)[k]'(by simpa using hk) :=
        (leBytes_toNat_getElem _ _ _).symm
    _ = (leBytes (w / 8) v.toNat).reverse[k]'(by simpa using hk) := by
        simp only [leBytes_bswapN hw]
    _ = v.extractLsb' (8 * (w / 8 - 1 - k)) 8 := by
        simp only [List.getElem_reverse, leBytes_length, leBytes_toNat_getElem]

/-- Two reversals of the place `k` meet in `k`, and a value is its bytes. -/
theorem bswapN_bswapN (hw : w / 8 * 8 = w) (v : BitVec w) : bswapN (bswapN v) = v := by
  apply eq_of_extract_bytes hw
  intro k hk
  have hplace : w / 8 - 1 - (w / 8 - 1 - k) = k := by omega
  rw [extract_byte_bswapN hw _ hk, extract_byte_bswapN hw _ (by omega), hplace]

/-- Settles O36: `extract_byte_bswapN` and `bswapN_bswapN` at the three widths. -/
theorem swapReversesBytes : Obligations.SwapReversesBytes :=
  ⟨fun v _ hk => extract_byte_bswapN rfl v hk, fun v _ hk => extract_byte_bswapN rfl v hk,
    fun v _ hk => extract_byte_bswapN rfl v hk, bswapN_bswapN rfl, bswapN_bswapN rfl,
    bswapN_bswapN rfl⟩

end Sys2Proof.Machine
end

section
/-! What the decoder has checked of a word it admits (30_encoding.md R96): which fields name registers
R0 to R10 (10_state.md R21), that no instruction writes R10 (R25), and that the instruction is wide
exactly when the opcode byte says so (R95). The class tables are walked once, in `decodeBasic_reading`
and `decodeWide_reading`. -/

namespace Sys2Proof

theorem lt_of_regOfField {v : BitVec 4} {r : Reg} (h : regOfField v = some r) : v.toNat < 11 := by
  by_contra hv
  rw [regOfField_none.2 (by omega)] at h
  cases h

theorem Instr.wide_eq_decide_imm64 (i : Instr) : i.wide = decide (i.family = .imm64) := by
  cases i <;> rfl

/-- A wide instruction takes two slots, every other one (30_encoding.md R81, R82). -/
theorem Instr.slots_eq (i : Instr) : i.slots = if i.family = .imm64 then 2 else 1 := by
  simp [Instr.slots, Instr.wide_eq_decide_imm64]

/-- What the decoder has checked of the fields of an instruction it reads from one slot: both register
fields name one of R0 to R10, but for the `src_reg` field that R100 leaves free. -/
structure BasicReading (f : Fields) (i : Instr) : Prop where
  dst : f.dst.toNat < 11
  src : f.src.toNat < 11 ∨ i.ignoresSrcField = true
  wide : i.wide = false

/-! ### Each form of the decoder -/

section Forms

variable {f : Fields} {i : Instr}

theorem Fields.twoOperand_reading {c : Reg → Src → Instr} (hc : ∀ d x, (c d x).wide = false)
    (h : f.twoOperand c = some i) : BasicReading f i := by
  unfold Fields.twoOperand at h
  split at h
  case h_1 => cases h
  case h_2 d hd =>
    split at h
    · split at h
      case isTrue hs =>
        cases h
        exact ⟨lt_of_regOfField hd, .inl (by simp [hs]), hc _ _⟩
      case isFalse => cases h
    · split at h
      · obtain ⟨r, hr, rfl⟩ := Option.map_eq_some_iff.1 h
        exact ⟨lt_of_regOfField hd, .inl (lt_of_regOfField hr), hc _ _⟩
      · cases h

theorem Fields.negation_reading {c : Reg → Instr} (hc : ∀ d, (c d).wide = false)
    (h : f.negation c = some i) : BasicReading f i := by
  unfold Fields.negation at h
  split at h
  case isTrue hz =>
    obtain ⟨-, hsrc, -⟩ := hz
    obtain ⟨d, hd, rfl⟩ := Option.map_eq_some_iff.1 h
    exact ⟨lt_of_regOfField hd, .inl (by simp [hsrc]), hc d⟩
  case isFalse => cases h

theorem Fields.registerMove_reading {c : Reg → Reg → Instr} (hc : ∀ d r, (c d r).wide = false)
    (h : f.registerMove c = some i) : BasicReading f i := by
  unfold Fields.registerMove at h
  split at h
  case h_1 => cases h
  case h_2 d hd =>
    split at h
    · obtain ⟨r, hr, rfl⟩ := Option.map_eq_some_iff.1 h
      exact ⟨lt_of_regOfField hd, .inl (lt_of_regOfField hr), hc d r⟩
    · cases h

theorem Fields.swapOf_reading {c16 c32 c64 : Reg → Instr} (h16 : ∀ d, (c16 d).wide = false)
    (h32 : ∀ d, (c32 d).wide = false) (h64 : ∀ d, (c64 d).wide = false)
    (h : f.swapOf c16 c32 c64 = some i) : BasicReading f i := by
  have key : ∀ c : Reg → Instr, (∀ d, (c d).wide = false) → f.src = 0 →
      (regOfField f.dst).map c = some i → BasicReading f i := by
    intro c hc hsrc hm
    obtain ⟨d, hd, rfl⟩ := Option.map_eq_some_iff.1 hm
    exact ⟨lt_of_regOfField hd, .inl (by simp [hsrc]), hc d⟩
  unfold Fields.swapOf at h
  split at h
  case isTrue hsrc =>
    split at h
    · exact key c16 h16 hsrc h
    · exact key c32 h32 hsrc h
    · exact key c64 h64 hsrc h
    · cases h
  case isFalse => cases h

theorem Fields.swap32_reading (h : f.swap32 = some i) : BasicReading f i := by
  unfold Fields.swap32 at h
  split at h
  · exact Fields.swapOf_reading (fun _ => rfl) (fun _ => rfl) (fun _ => rfl) h
  · exact Fields.swapOf_reading (fun _ => rfl) (fun _ => rfl) (fun _ => rfl) h

theorem Fields.swap64_reading (h : f.swap64 = some i) : BasicReading f i := by
  unfold Fields.swap64 at h
  split at h
  · exact Fields.swapOf_reading (fun _ => rfl) (fun _ => rfl) (fun _ => rfl) h
  · cases h

theorem Fields.conditional_reading {c : Reg → Src → BitVec 16 → Instr}
    (hc : ∀ d x off, (c d x off).wide = false)
    (hK : ∀ d v off, (c d (.imm v) off).ignoresSrcField = true)
    (h : f.conditional c = some i) : BasicReading f i := by
  unfold Fields.conditional at h
  split at h
  case h_1 => cases h
  case h_2 d hd =>
    split at h
    · cases h
      exact ⟨lt_of_regOfField hd, .inr (hK _ _ _), hc _ _ _⟩
    · split at h
      · obtain ⟨r, hr, rfl⟩ := Option.map_eq_some_iff.1 h
        exact ⟨lt_of_regOfField hd, .inl (lt_of_regOfField hr), hc _ _ _⟩
      · cases h

theorem Fields.call_reading (h : f.call = some i) : BasicReading f i := by
  unfold Fields.call at h
  split at h
  case isTrue hz =>
    obtain ⟨-, hdst, -⟩ := hz
    split at h
    case h_4 => cases h
    all_goals
      rename_i hsrc
      cases h
      exact ⟨by simp [hdst], .inl (by omega), rfl⟩
  case isFalse => cases h

theorem Fields.load_reading {c : Reg → Reg → BitVec 16 → Instr}
    (hc : ∀ d b off, (c d b off).wide = false) (h : f.load c = some i) : BasicReading f i := by
  unfold Fields.load at h
  split at h
  case h_1 => cases h
  case h_2 d hd =>
    split at h
    · obtain ⟨b, hb, rfl⟩ := Option.map_eq_some_iff.1 h
      exact ⟨lt_of_regOfField hd, .inl (lt_of_regOfField hb), hc _ _ _⟩
    · cases h

theorem Fields.storeImm_reading {c : Reg → BitVec 16 → BitVec 32 → Instr}
    (hc : ∀ b off v, (c b off v).wide = false) (h : f.storeImm c = some i) : BasicReading f i := by
  unfold Fields.storeImm at h
  split at h
  case isTrue hsrc =>
    obtain ⟨b, hb, rfl⟩ := Option.map_eq_some_iff.1 h
    exact ⟨lt_of_regOfField hb, .inl (by simp [hsrc]), hc _ _ _⟩
  case isFalse => cases h

theorem Fields.storeReg_reading {c : Reg → BitVec 16 → Reg → Instr}
    (hc : ∀ b off r, (c b off r).wide = false) (h : f.storeReg c = some i) : BasicReading f i := by
  unfold Fields.storeReg at h
  split at h
  case h_1 => cases h
  case h_2 b hb =>
    split at h
    · obtain ⟨r, hr, rfl⟩ := Option.map_eq_some_iff.1 h
      exact ⟨lt_of_regOfField hb, .inl (lt_of_regOfField hr), hc _ _ _⟩
    · cases h

theorem Fields.atomic_reading {c : Reg → BitVec 16 → Reg → Instr}
    (hc : ∀ b off r, (c b off r).wide = false) (h : f.atomic c = some i) : BasicReading f i := by
  unfold Fields.atomic at h
  split at h
  case h_1 => cases h
  case h_2 b hb =>
    obtain ⟨r, hr, rfl⟩ := Option.map_eq_some_iff.1 h
    exact ⟨lt_of_regOfField hb, .inl (lt_of_regOfField hr), hc _ _ _⟩

end Forms

/-! ### Each class table -/

section Classes

variable {f : Fields} {i : Instr}

theorem decodeAlu64_reading (h : decodeAlu64 f = some i) : BasicReading f i := by
  unfold decodeAlu64 at h
  split at h <;> first
    | cases h
    | exact Fields.twoOperand_reading (fun _ _ => rfl) h
    | exact Fields.negation_reading (fun _ => rfl) h
    | exact Fields.registerMove_reading (fun _ _ => rfl) h
    | exact Fields.swap64_reading h

theorem decodeAlu32_reading (h : decodeAlu32 f = some i) : BasicReading f i := by
  unfold decodeAlu32 at h
  split at h <;> first
    | cases h
    | exact Fields.twoOperand_reading (fun _ _ => rfl) h
    | exact Fields.negation_reading (fun _ => rfl) h
    | exact Fields.registerMove_reading (fun _ _ => rfl) h
    | exact Fields.swap32_reading h

/-- `ja`, `ja32` and `exit` ask both register fields to be zero. -/
theorem BasicReading.of_zero_fields {j : Instr} {p : Prop} [Decidable p]
    (hp : p → f.dst = 0 ∧ f.src = 0) (hw : j.wide = false)
    (h : (if p then some j else none) = some i) : BasicReading f i := by
  split at h
  case isTrue hz =>
    obtain ⟨hdst, hsrc⟩ := hp hz
    cases h
    exact ⟨by simp [hdst], .inl (by simp [hsrc]), hw⟩
  case isFalse => cases h

theorem decodeJmp_reading (h : decodeJmp f = some i) : BasicReading f i := by
  unfold decodeJmp at h
  split at h <;> first
    | cases h
    | exact Fields.conditional_reading (fun _ _ _ => rfl) (fun _ _ _ => rfl) h
    | exact Fields.call_reading h
    | exact BasicReading.of_zero_fields (fun ⟨_, hdst, hsrc, _⟩ => ⟨hdst, hsrc⟩) rfl h

theorem decodeJmp32_reading (h : decodeJmp32 f = some i) : BasicReading f i := by
  unfold decodeJmp32 at h
  split at h <;> first
    | cases h
    | exact Fields.conditional_reading (fun _ _ _ => rfl) (fun _ _ _ => rfl) h
    | exact BasicReading.of_zero_fields (fun ⟨_, hdst, hsrc, _⟩ => ⟨hdst, hsrc⟩) rfl h

theorem decodeLdx_reading (h : decodeLdx f = some i) : BasicReading f i := by
  unfold decodeLdx at h
  split at h <;> first
    | cases h
    | exact Fields.load_reading (fun _ _ _ => rfl) h

theorem decodeSt_reading (h : decodeSt f = some i) : BasicReading f i := by
  unfold decodeSt at h
  split at h <;> first
    | cases h
    | exact Fields.storeImm_reading (fun _ _ _ => rfl) h

theorem decodeAtomic32_reading (h : decodeAtomic32 f = some i) : BasicReading f i := by
  unfold decodeAtomic32 at h
  split at h <;> first
    | cases h
    | exact Fields.atomic_reading (fun _ _ _ => rfl) h

theorem decodeAtomic64_reading (h : decodeAtomic64 f = some i) : BasicReading f i := by
  unfold decodeAtomic64 at h
  split at h <;> first
    | cases h
    | exact Fields.atomic_reading (fun _ _ _ => rfl) h

theorem decodeStx_reading (h : decodeStx f = some i) : BasicReading f i := by
  unfold decodeStx at h
  split at h <;> first
    | cases h
    | exact Fields.storeReg_reading (fun _ _ _ => rfl) h
    | exact decodeAtomic32_reading h
    | exact decodeAtomic64_reading h

theorem decodeBasic_reading (h : decodeBasic f = some i) : BasicReading f i := by
  unfold decodeBasic at h
  split at h
  · exact decodeLdx_reading h
  · exact decodeSt_reading h
  · exact decodeStx_reading h
  · exact decodeAlu32_reading h
  · exact decodeJmp_reading h
  · exact decodeJmp32_reading h
  · exact decodeAlu64_reading h
  · cases h

/-- A wide instruction writes the register `dst_reg` names; its `src_reg` is a subtype below 7. -/
theorem decodeWide_reading {next : BitVec 32} (h : decodeWide f next = some i) :
    i.wide = true ∧ f.src.toNat < 7 ∧ ∃ d, regOfField f.dst = some d ∧ i.writes = some d := by
  unfold decodeWide at h
  split at h
  case isFalse => cases h
  case isTrue =>
    split at h
    case h_1 => cases h
    case h_2 d hd =>
      split at h
      case h_8 => cases h
      case h_1 | h_3 | h_7 =>
        rename_i hsrc
        cases h
        exact ⟨rfl, by omega, d, hd, rfl⟩
      all_goals
        rename_i hsrc
        split at h
        · cases h
          exact ⟨rfl, by omega, d, hd, rfl⟩
        · cases h

end Classes

/-! ### The whole decoder -/

/-- What the decoder has checked of an instruction it reads from slot `a` and the slot `b` after it. -/
structure DecodedFrom (e : Endian) (a : Slot) (b : Option Slot) (i : Instr) : Prop where
  wellFormed : i.wellFormed = true
  dst : (a.fields e).dst.toNat < 11
  src : (a.fields e).src.toNat < 11 ∨ i.ignoresSrcField = true
  wide : i.wide = true ↔ a.b0 = 0x18
  second : i.wide = true → b.isSome = true

theorem accept_ok {groups : List Group} {found : Option Instr} {i : Instr} :
    accept groups found = .ok i ↔
      found = some i ∧ i.wellFormed = true ∧ i.implemented groups = true := by
  unfold accept
  split
  · simp
  · split
    case isTrue hj =>
      rw [Bool.and_eq_true] at hj
      simp only [Except.ok.injEq, Option.some.injEq]
      exact ⟨by rintro rfl; exact ⟨rfl, hj⟩, fun h => h.1⟩
    case isFalse hj =>
      rw [Bool.and_eq_true] at hj
      simp only [reduceCtorEq, Option.some.injEq, false_iff]
      rintro ⟨rfl, h⟩
      exact hj h

theorem accept_error {groups : List Group} {found : Option Instr} {err : DecodeError}
    (h : accept groups found = .error err) : err = .illegalEncoding := by
  unfold accept at h
  split at h
  · cases h; rfl
  · split at h
    · cases h
    · cases h; rfl

section Decoder

variable {e : Endian} {groups : List Group} {a : Slot} {b : Option Slot}

theorem decode_of_wide (ha : a.b0 = 0x18) (s : Slot) :
    decode e groups a (some s) =
      if s.reservedZero then accept groups (decodeWide (a.fields e) (s.fields e).imm)
      else .error .illegalEncoding := by
  simp [decode, wideOpcode, ha]

theorem decode_of_wide_none (ha : a.b0 = 0x18) :
    decode e groups a none = .error .illegalEncoding := by
  simp [decode, wideOpcode, ha]

theorem decode_of_basic (ha : a.b0 ≠ 0x18) :
    decode e groups a b =
      if (a.fields e).legacy then .error .legacyPacketAccess
      else accept groups (decodeBasic (a.fields e)) :=
  if_neg (by rw [Slot.fields_opcode]; exact ha)

theorem decode_ok {i : Instr} (h : decode e groups a b = .ok i) : DecodedFrom e a b i := by
  by_cases ha : a.b0 = 0x18
  · cases b with
    | none => rw [decode_of_wide_none ha] at h; cases h
    | some s =>
      rw [decode_of_wide ha] at h
      split at h
      · obtain ⟨hi, hwf, -⟩ := accept_ok.1 h
        obtain ⟨hwide, hsrc, d, hd, -⟩ := decodeWide_reading hi
        exact ⟨hwf, lt_of_regOfField hd, .inl (by omega), iff_of_true hwide ha, fun _ => rfl⟩
      · cases h
  · rw [decode_of_basic ha] at h
    split at h
    · cases h
    · obtain ⟨hi, hwf, -⟩ := accept_ok.1 h
      obtain ⟨hdst, hsrc, hwide⟩ := decodeBasic_reading hi
      have hnot : ¬i.wide = true := by simp [hwide]
      exact ⟨hwf, hdst, hsrc, iff_of_false hnot ha, fun hw => absurd hw hnot⟩

theorem legacyOpcode_of_legacy (h : (a.fields e).legacy = true) : LegacyOpcode a.b0 := by
  simpa [Fields.legacy, Fields.cls, Fields.mode, LegacyOpcode] using h

/-- Outside the legacy modes every refusal of the decoder is an illegal encoding. -/
theorem decode_error {err : DecodeError} (ha : ¬LegacyOpcode a.b0)
    (h : decode e groups a b = .error err) : err = .illegalEncoding := by
  by_cases hw : a.b0 = 0x18
  · cases b with
    | none => rw [decode_of_wide_none hw] at h; cases h; rfl
    | some s =>
      rw [decode_of_wide hw] at h
      split at h
      · exact accept_error h
      · cases h; rfl
  · rw [decode_of_basic hw] at h
    split at h
    case isTrue hl => exact absurd (legacyOpcode_of_legacy hl) ha
    case isFalse => exact accept_error h

end Decoder

end Sys2Proof

namespace Sys2Proof.Machine

/-- Settles O7: what the decoder admits has `dst_reg` below 11 and `src_reg` below 11 or ignored
(`decode_ok`), and what it does not admit is an illegal encoding (`decode_error`). -/
theorem registerNumbersChecked : Obligations.RegisterNumbersChecked := by
  intro e groups a b ha
  cases h : decode e groups a b with
  | error err =>
    cases decode_error ha h
    exact ⟨fun _ => rfl, fun _ => .inl rfl⟩
  | ok i =>
    obtain ⟨-, hdst, hsrc, -, -⟩ := decode_ok h
    refine ⟨fun hd => absurd hd (by omega), fun hs => .inr ⟨i, rfl, ?_⟩⟩
    exact hsrc.resolve_left (by omega)

/-- The instruction fetched stands at `pc`, and a wide one has its second slot there. -/
theorem fetch_ok {s : State} {i : Instr} (h : fetch s = .ok i) :
    ∃ a, s.program[s.pc]? = some a ∧
      DecodedFrom s.params.hostEndian a s.program[s.pc + 1]? i := by
  unfold fetch at h
  split at h
  case h_1 => cases h
  case h_2 a ha =>
    split at h
    case h_1 j hj => cases h; exact ⟨a, ha, decode_ok hj⟩
    case h_2 => cases h

end Sys2Proof.Machine
end

section
/-! What an instruction other than `call_local` and `exit` keeps (`exec_keepsFrame`) and where it goes
on (`exec_pc`), and from these the invariant of the machine (10_state.md R26, R28; 41_jump.md R181,
R202, R203, R205). -/

namespace Sys2Proof.Machine

/-! ### One step of a machine -/

theorem step_of_exited {s : State} {v : Word} (h : s.status = .exited v) : step s = .next s := by
  simp [step, h]

theorem step_of_faulted {s : State} {f : Fault} (h : s.status = .faulted f) : step s = .fault f := by
  simp [step, h]

theorem step_of_running {s : State} (h : s.status = .running) :
    step s = orFault (fetch s) fun i => exec i s := by
  simp only [step, h]
  cases fetch s <;> rfl

/-- A running machine that goes on has executed the instruction it fetched. -/
theorem step_next_of_running {s t : State} (hs : s.status = .running) (h : step s = .next t) :
    ∃ i, fetch s = .ok i ∧ exec i s = .next t := by
  rw [step_of_running hs] at h
  exact orFault_next.1 h

/-- Settles O18: `step_of_exited` and `step_of_faulted`. -/
theorem endedRunsStayEnded : Obligations.EndedRunsStayEnded :=
  fun _ => ⟨fun _ => step_of_exited, fun _ => step_of_faulted⟩

/-! ### What only `call_local` and `exit` change -/

/-- The call stack, R10 and the run status are as they were, and so is what no step changes; memory
keeps its canonical form. -/
structure KeepsFrame (s t : State) : Prop where
  callStack : t.callStack = s.callStack
  fp : t.reg Reg.fp = s.reg Reg.fp
  status : t.status = s.status
  program : t.program = s.program
  params : t.params = s.params
  mem : s.mem.wf = true → t.mem.wf = true

namespace KeepsFrame

variable {s t : State}

theorem refl (s : State) : KeepsFrame s s := ⟨rfl, rfl, rfl, rfl, rfl, id⟩

theorem setPc (h : KeepsFrame s t) (k : Nat) : KeepsFrame s { t with pc := k } :=
  ⟨h.callStack, h.fp, h.status, h.program, h.params, h.mem⟩

theorem advance (h : KeepsFrame s t) (n : Nat) : KeepsFrame s (t.advance n) := h.setPc _

theorem writeReg (h : KeepsFrame s t) {r : Reg} (hr : r ≠ Reg.fp) (v : Word) :
    KeepsFrame s (t.writeReg r v) :=
  ⟨h.callStack, (t.reg_writeReg_other hr.symm v).trans h.fp, h.status, h.program, h.params, h.mem⟩

theorem storeValue (h : KeepsFrame s t) {a w : Nat} (ha : a + w / 8 ≤ 2 ^ 64) (v : BitVec w) :
    KeepsFrame s (t.storeValue a v) :=
  ⟨h.callStack, h.fp, h.status, h.program, h.params, fun hs => t.storeValue_wf a v ha (h.mem hs)⟩

theorem afterHelper (s : State) (r : HelperReturn) : KeepsFrame s (s.nextDraw.afterHelper r) where
  callStack := rfl
  fp := by rw [State.reg_afterHelper, if_neg (by decide), if_neg (by decide), State.reg_nextDraw]
  status := rfl
  program := rfl
  params := rfl
  mem := Memory.wf_setCells _ _

end KeepsFrame

theorem Instr.ne_fp_of_writes {i : Instr} {r : Reg} (hi : i.wellFormed = true)
    (hr : i.writes = some r) : r ≠ Reg.fp := by
  rintro rfl
  simp [Instr.wellFormed, hr] at hi

theorem exec_keepsFrame {i : Instr} {s t : State} (hi : i.wellFormed = true)
    (hcall : i.family ≠ .localCall) (hexit : i.family ≠ .exit) (h : exec i s = .next t) :
    KeepsFrame s t := by
  have hs := KeepsFrame.refl s
  cases hf : i.family with
  | arithmetic =>
    obtain ⟨r, v, hr, rfl⟩ := exec_arithmetic hf h
    exact (hs.writeReg (Instr.ne_fp_of_writes hi hr) v).advance 1
  | load =>
    obtain ⟨r, v, hr, rfl⟩ := exec_load hf h
    exact (hs.writeReg (Instr.ne_fp_of_writes hi hr) v).advance 1
  | imm64 =>
    obtain ⟨r, v, hr, rfl⟩ := exec_imm64 hf h
    exact (hs.writeReg (Instr.ne_fp_of_writes hi hr) v).advance 2
  | jump =>
    obtain rfl | ⟨k, rfl, -, -⟩ := exec_jump hf h
    · exact hs.advance 1
    · exact hs.setPc k
  | store =>
    obtain ⟨m, b, w, v, -, hw, -, ha, -, rfl⟩ := exec_store hf h
    exact (hs.storeValue (hw ▸ ha) v).advance 1
  | atomic =>
    obtain ⟨m, b, w, v, -, hw, -, ha, -, -, ⟨-, rfl⟩ | ⟨r, hr, rfl⟩⟩ := exec_atomic hf h
    · exact (hs.storeValue (hw ▸ ha) v).advance 1
    · exact ((hs.storeValue (hw ▸ ha) v).writeReg (Instr.ne_fp_of_writes hi hr) _).advance 1
  | compareExchange =>
    obtain ⟨m, b, w, v, u, -, hw, -, ha, -, -, rfl | rfl, rfl⟩ := exec_compareExchange hf h
    · exact (hs.writeReg (by decide) _).advance 1
    · exact ((hs.storeValue (hw ▸ ha) v).writeReg (by decide) _).advance 1
  | helperCall =>
    obtain ⟨e, r, -, -, rfl⟩ := exec_helperCall hf h
    exact .afterHelper s r
  | localCall => exact absurd hf hcall
  | exit => exact absurd hf hexit

/-! ### Where an instruction goes on -/

/-- The first slot after a fetched instruction is the end of the program or no second slot. -/
theorem goodPc_after_fetch {s : State} {i : Instr} (hpc : GoodPc s.program s.pc)
    (h : fetch s = .ok i) : GoodPc s.program (s.pc + i.slots) := by
  obtain ⟨a, ha, hd⟩ := fetch_ok h
  have hlt : s.pc < s.program.length := (List.getElem?_eq_some_iff.1 ha).1
  unfold Instr.slots
  split
  case isTrue hw =>
    have hlt' : s.pc + 1 < s.program.length := by simpa using hd.second hw
    exact ⟨hlt', secondSlot_after_wide ha (hd.wide.1 hw) hpc.2⟩
  case isFalse hw => exact ⟨hlt, secondSlot_after_basic ha (mt hd.wide.2 hw)⟩

/-- But for calls and `exit`, an instruction goes on after its own slots or jumps to a good slot. -/
theorem exec_pc {i : Instr} {s t : State} (hcall : i.family ≠ .localCall) (hexit : i.family ≠ .exit)
    (h : exec i s = .next t) : t.pc = s.pc + i.slots ∨ GoodPc s.program t.pc := by
  rw [Instr.slots_eq]
  cases hf : i.family with
  | arithmetic => obtain ⟨r, v, -, rfl⟩ := exec_arithmetic hf h; exact .inl rfl
  | load => obtain ⟨r, v, -, rfl⟩ := exec_load hf h; exact .inl rfl
  | imm64 => obtain ⟨r, v, -, rfl⟩ := exec_imm64 hf h; exact .inl rfl
  | jump =>
    obtain rfl | ⟨k, rfl, hlt, hk⟩ := exec_jump hf h
    · exact .inl rfl
    · exact .inr ⟨hlt.le, hk⟩
  | store => obtain ⟨m, b, w, v, -, -, -, -, -, rfl⟩ := exec_store hf h; exact .inl rfl
  | atomic =>
    obtain ⟨m, b, w, v, -, -, -, -, -, -, ⟨-, rfl⟩ | ⟨r, -, rfl⟩⟩ := exec_atomic hf h
    · exact .inl rfl
    · exact .inl rfl
  | compareExchange =>
    obtain ⟨m, b, w, v, u, -, -, -, -, -, -, rfl | rfl, rfl⟩ := exec_compareExchange hf h
    · exact .inl rfl
    · exact .inl rfl
  | helperCall => obtain ⟨e, r, -, -, rfl⟩ := exec_helperCall hf h; exact .inl rfl
  | localCall => exact absurd hf hcall
  | exit => exact absurd hf hexit

/-! ### The invariant -/

variable {s t : State}

/-- The invariant speaks of memory, `pc` and the frame alone. -/
theorem Inv.of_keepsFrame (hs : Inv s) (h : KeepsFrame s t) (hpc : GoodPc s.program t.pc) :
    Inv t where
  mem := h.mem hs.mem
  pc := by rw [h.program]; exact hpc
  depth := by rw [h.callStack, h.params]; exact hs.depth
  fp := by rw [h.callStack, h.params, h.fp]; exact hs.fp
  frames := by rw [h.callStack, h.params, h.program]; exact hs.frames

/-- Entering a function within MAX_CALL_DEPTH at a good slot, from before a good slot to return to. -/
theorem Inv.enterFunction (hs : Inv s) {k : Nat}
    (hdepth : s.callStack.length + 2 ≤ s.params.maxCallDepth) (hk : GoodPc s.program k)
    (hret : GoodPc s.program (s.pc + 1)) : Inv (s.enterFunction k) where
  mem := hs.mem
  pc := hk
  depth := .inr hdepth
  fp := by rw [State.reg_enterFunction, if_neg (by decide), if_pos rfl]; rfl
  frames := ⟨hret, hs.fp, hs.frames⟩

/-- Returning to the newest frame: what was saved is what the invariant asks of the caller. -/
theorem Inv.leaveFunction (hs : Inv s) {f : Frame} {rest : List Frame}
    (hstack : s.callStack = f :: rest) : Inv (s.leaveFunction f rest) := by
  have hframes := hs.frames
  have hdepth := hs.depth
  rw [hstack] at hframes hdepth
  obtain ⟨hret, hr10, hrest⟩ := hframes
  refine ⟨hs.mem, hret, .inr ?_, ?_, hrest⟩
  · have hlen : rest.length + 2 ≤ s.params.maxCallDepth :=
      hdepth.resolve_left (List.cons_ne_nil _ _)
    exact Nat.le_of_succ_le hlen
  · rw [State.reg_leaveFunction, if_neg (by decide), if_pos rfl]
    exact hr10

/-- The outermost `exit` changes nothing the invariant speaks of. -/
theorem Inv.setStatus (hs : Inv s) (st : RunStatus) : Inv { s with status := st } :=
  ⟨hs.mem, hs.pc, hs.depth, hs.fp, hs.frames⟩

theorem Inv.exec {i : Instr} (hs : Inv s) (hfetch : fetch s = .ok i)
    (h : Machine.exec i s = .next t) : Inv t := by
  have hnext := goodPc_after_fetch hs.pc hfetch
  by_cases hcall : i.family = .localCall
  · obtain ⟨hdepth, k, hlt, hk, rfl⟩ := exec_localCall hcall h
    rw [Instr.slots_eq, hcall] at hnext
    exact hs.enterFunction hdepth ⟨hlt.le, hk⟩ hnext
  by_cases hexit : i.family = .exit
  · obtain ⟨-, v, -, ⟨-, rfl⟩ | ⟨f, rest, hstack, rfl⟩⟩ := exec_exit hexit h
    · exact hs.setStatus _
    · exact hs.leaveFunction hstack
  obtain ⟨a, -, hd⟩ := fetch_ok hfetch
  refine hs.of_keepsFrame (exec_keepsFrame hd.wellFormed hcall hexit h) ?_
  obtain hpc | hpc := exec_pc hcall hexit h
  · rw [hpc]; exact hnext
  · exact hpc

/-- Settles O16: an ended machine stays as it is, and `Inv.exec` for a running one. -/
theorem stepKeepsInvariant : Obligations.StepKeepsInvariant := by
  intro s t hs h
  cases hst : s.status with
  | running =>
    obtain ⟨i, hfetch, hexec⟩ := step_next_of_running hst h
    exact hs.exec hfetch hexec
  | exited v =>
    rw [step_of_exited hst] at h
    cases h
    exact hs
  | faulted f =>
    rw [step_of_faulted hst] at h
    cases h

/-- The state at the start of a run meets the invariant: no frame is live, and R10 is FP0. -/
theorem inv_start {program : List Slot} {p : Params} {mem : Memory} {memMap : MemMap}
    {answers : List Nat} {seed : Nat} (hmem : mem.wf = true) (hfp : framePointer p 0 = p.fp0) :
    Inv (State.start program p mem memMap answers seed) where
  mem := hmem
  pc := ⟨Nat.zero_le _, secondSlot_zero _⟩
  depth := .inl rfl
  fp := congrArg RegContent.value hfp.symm
  frames := trivial

theorem framePointer_default_zero : framePointer Params.default 0 = Params.default.fp0 := by decide

/-- Settles O15: reset is a start with empty memory and the default layout. -/
theorem invariantAtStart : Obligations.InvariantAtStart :=
  ⟨inv_start Memory.wf_empty framePointer_default_zero,
    fun _ _ _ _ _ _ hmem hfp => inv_start hmem hfp⟩

end Sys2Proof.Machine
end

section
/-! How a run starts and how it ends (10_state.md R33, R34): the state at the start, the one step that
ends a run with a result, and why a result is final. -/

namespace Sys2Proof.Machine

/-! ### The start -/

/-- Settles O13: each content of `startRegs` is read off, and `State.reset` is a start by definition. -/
theorem startOfARun : Obligations.StartOfARun := by
  refine ⟨?_, rfl⟩
  intro program p mem memMap answers seed
  have hregs : ∀ r ∈ ([0, 2, 3, 4, 5, 6, 7, 8, 9] : List Reg),
      (State.start program p mem memMap answers seed).reg r = .noValue := by
    simp [State.reg, State.start, startRegs]
  exact ⟨rfl, rfl, hregs, rfl, rfl, rfl, rfl, rfl, rfl, rfl⟩

/-- Settles O14: the fields of `State.reset`, evaluated. -/
theorem resetChoices : Obligations.ResetChoices := by
  unfold Obligations.ResetChoices
  decide

/-! ### The step that ends a run -/

/-- Settles O19: every instruction but `exit` keeps the status, and so does an `exit` that returns to a
caller. -/
theorem onlyTheOutermostExitEndsARun : Obligations.OnlyTheOutermostExitEndsARun := by
  intro s t hs hstep ht
  obtain ⟨i, hfetch, hexec⟩ := step_next_of_running hs hstep
  by_cases hcall : i.family = .localCall
  · obtain ⟨-, k, -, -, rfl⟩ := exec_localCall hcall hexec
    exact absurd hs ht
  by_cases hexit : i.family = .exit
  · obtain ⟨rfl, v, hv, ⟨hstack, rfl⟩ | ⟨f, rest, -, rfl⟩⟩ := exec_exit hexit hexec
    · exact ⟨v, hfetch, hstack, hv, rfl⟩
    · exact absurd hs ht
  obtain ⟨a, -, hd⟩ := fetch_ok hfetch
  have hkeep := exec_keepsFrame hd.wellFormed hcall hexit hexec
  exact absurd (hkeep.status.trans hs) ht

/-! ### Runs -/

theorem run_succ (k : Nat) (s : State) :
    run (k + 1) s = match step s with
      | .next t => run k t
      | .fault f => .fault f
      | .refused r => .refused r := rfl

theorem run_succ_next {k : Nat} {s t : State} :
    run (k + 1) s = .next t ↔ ∃ u, step s = .next u ∧ run k u = .next t := by
  rw [run_succ]
  cases step s <;> simp

/-- A run that goes on for `j + k` steps goes on for `j`, and from there for `k` more. -/
theorem run_add_next {j k : Nat} {s t : State} :
    run (j + k) s = .next t ↔ ∃ u, run j s = .next u ∧ run k u = .next t := by
  induction j generalizing s with
  | zero => simp [run]
  | succ j ih =>
    rw [Nat.succ_add]
    simp only [run_succ_next, ih]
    constructor
    · rintro ⟨u, hu, w, hw, hk⟩; exact ⟨w, ⟨u, hu, hw⟩, hk⟩
    · rintro ⟨w, ⟨u, hu, hw⟩, hk⟩; exact ⟨u, hu, w, hw, hk⟩

theorem run_of_exited {s : State} {v : Word} (h : s.status = .exited v) (k : Nat) :
    run k s = .next s := by
  induction k with
  | zero => rfl
  | succ k ih => exact run_succ_next.2 ⟨s, step_of_exited h, ih⟩

section Ended

variable {s t : State} {k : Nat} {v : Word}

/-- The state a run has exited in is the state after any greater number of steps. -/
theorem run_eq_of_exited (hrun : run k s = .next t) (hv : t.status = .exited v) {j : Nat}
    (hj : k ≤ j) : run j s = .next t := by
  obtain ⟨m, rfl⟩ := Nat.exists_eq_add_of_le hj
  exact run_add_next.2 ⟨t, hrun, run_of_exited hv m⟩

/-- A run that exits is safe: up to its end it has gone on, and from there it stays as it is. -/
theorem safeRun_of_exited (hrun : run k s = .next t) (hv : t.status = .exited v) : SafeRun s := by
  intro j
  obtain hj | hj := Nat.le_total k j
  · exact ⟨t, run_eq_of_exited hrun hv hj⟩
  · obtain ⟨m, rfl⟩ := Nat.exists_eq_add_of_le hj
    obtain ⟨u, hu, -⟩ := run_add_next.1 hrun
    exact ⟨u, hu⟩

end Ended

theorem not_faults_of_safeRun {s : State} (h : SafeRun s) (f : Fault) : ¬Faults s f := by
  rintro ⟨k, hk⟩
  obtain ⟨t, ht⟩ := h k
  rw [hk] at ht
  cases ht

theorem Returns.unique {s : State} {v w : Word} (hv : Returns s v) (hw : Returns s w) : w = v := by
  obtain ⟨j, t, hj, ht⟩ := hv
  obtain ⟨k, u, hk, hu⟩ := hw
  have hsame : u = t := next_eq.1 <|
    (run_eq_of_exited hj ht (Nat.le_max_left j k)).symm.trans
      (run_eq_of_exited hk hu (Nat.le_max_right j k))
  subst hsame
  rw [ht] at hu
  cases hu
  rfl

/-- Settles O20: by `Returns.unique` and `safeRun_of_exited`. -/
theorem resultIsFinal : Obligations.ResultIsFinal := by
  intro s v h
  obtain ⟨k, t, hk, ht⟩ := h
  have hsafe := safeRun_of_exited hk ht
  exact ⟨fun w hw => Returns.unique ⟨k, t, hk, ht⟩ hw, not_faults_of_safeRun hsafe, hsafe⟩

end Sys2Proof.Machine
end

section
/-! R10 is read-only to the program (10_state.md R25): the field that names the register to write, by
family, and the decoder's refusal of the words in which that field names R10. -/

namespace Sys2Proof

/-! ### The fields an instruction is decoded from -/

section

open Laws.EncodedFields

/-- The first slot of every instruction, with its `next_imm`, decodes to that instruction before the
checks of 30_encoding.md R96 steps 6 to 8. -/
theorem encodedFields_statement : ∀ i : Instr, Statement i
  | .add64 dst src => add64 dst src
  | .add32 dst src => add32 dst src
  | .sub64 dst src => sub64 dst src
  | .sub32 dst src => sub32 dst src
  | .mul64 dst src => mul64 dst src
  | .mul32 dst src => mul32 dst src
  | .div64 dst src => div64 dst src
  | .div32 dst src => div32 dst src
  | .sdiv64 dst src => sdiv64 dst src
  | .sdiv32 dst src => sdiv32 dst src
  | .or64 dst src => or64 dst src
  | .or32 dst src => or32 dst src
  | .and64 dst src => and64 dst src
  | .and32 dst src => and32 dst src
  | .lsh64 dst src => lsh64 dst src
  | .lsh32 dst src => lsh32 dst src
  | .rsh64 dst src => rsh64 dst src
  | .rsh32 dst src => rsh32 dst src
  | .mod64 dst src => mod64 dst src
  | .mod32 dst src => mod32 dst src
  | .smod64 dst src => smod64 dst src
  | .smod32 dst src => smod32 dst src
  | .xor64 dst src => xor64 dst src
  | .xor32 dst src => xor32 dst src
  | .mov64 dst src => mov64 dst src
  | .mov32 dst src => mov32 dst src
  | .arsh64 dst src => arsh64 dst src
  | .arsh32 dst src => arsh32 dst src
  | .neg64 dst => neg64 dst
  | .neg32 dst => neg32 dst
  | .movsx8_64 dst src => movsx8_64 dst src
  | .movsx16_64 dst src => movsx16_64 dst src
  | .movsx32_64 dst src => movsx32_64 dst src
  | .movsx8_32 dst src => movsx8_32 dst src
  | .movsx16_32 dst src => movsx16_32 dst src
  | .le16 dst => le16 dst
  | .le32 dst => le32 dst
  | .le64 dst => le64 dst
  | .be16 dst => be16 dst
  | .be32 dst => be32 dst
  | .be64 dst => be64 dst
  | .bswap16 dst => bswap16 dst
  | .bswap32 dst => bswap32 dst
  | .bswap64 dst => bswap64 dst
  | .ja off => ja off
  | .ja32 imm => ja32 imm
  | .jeq64 dst src off => jeq64 dst src off
  | .jeq32 dst src off => jeq32 dst src off
  | .jgt64 dst src off => jgt64 dst src off
  | .jgt32 dst src off => jgt32 dst src off
  | .jge64 dst src off => jge64 dst src off
  | .jge32 dst src off => jge32 dst src off
  | .jset64 dst src off => jset64 dst src off
  | .jset32 dst src off => jset32 dst src off
  | .jne64 dst src off => jne64 dst src off
  | .jne32 dst src off => jne32 dst src off
  | .jsgt64 dst src off => jsgt64 dst src off
  | .jsgt32 dst src off => jsgt32 dst src off
  | .jsge64 dst src off => jsge64 dst src off
  | .jsge32 dst src off => jsge32 dst src off
  | .jlt64 dst src off => jlt64 dst src off
  | .jlt32 dst src off => jlt32 dst src off
  | .jle64 dst src off => jle64 dst src off
  | .jle32 dst src off => jle32 dst src off
  | .jslt64 dst src off => jslt64 dst src off
  | .jslt32 dst src off => jslt32 dst src off
  | .jsle64 dst src off => jsle64 dst src off
  | .jsle32 dst src off => jsle32 dst src off
  | .callHelper imm => callHelper imm
  | .callLocal imm => callLocal imm
  | .callBtf imm => callBtf imm
  | .exit => exit
  | .ldxw dst base off => ldxw dst base off
  | .ldxh dst base off => ldxh dst base off
  | .ldxb dst base off => ldxb dst base off
  | .ldxdw dst base off => ldxdw dst base off
  | .ldxsw dst base off => ldxsw dst base off
  | .ldxsh dst base off => ldxsh dst base off
  | .ldxsb dst base off => ldxsb dst base off
  | .stw base off imm => stw base off imm
  | .sth base off imm => sth base off imm
  | .stb base off imm => stb base off imm
  | .stdw base off imm => stdw base off imm
  | .stxw base off src => stxw base off src
  | .stxh base off src => stxh base off src
  | .stxb base off src => stxb base off src
  | .stxdw base off src => stxdw base off src
  | .atomicAdd32 base off src => atomicAdd32 base off src
  | .atomicAdd64 base off src => atomicAdd64 base off src
  | .atomicOr32 base off src => atomicOr32 base off src
  | .atomicOr64 base off src => atomicOr64 base off src
  | .atomicAnd32 base off src => atomicAnd32 base off src
  | .atomicAnd64 base off src => atomicAnd64 base off src
  | .atomicXor32 base off src => atomicXor32 base off src
  | .atomicXor64 base off src => atomicXor64 base off src
  | .atomicFetchAdd32 base off src => atomicFetchAdd32 base off src
  | .atomicFetchAdd64 base off src => atomicFetchAdd64 base off src
  | .atomicFetchOr32 base off src => atomicFetchOr32 base off src
  | .atomicFetchOr64 base off src => atomicFetchOr64 base off src
  | .atomicFetchAnd32 base off src => atomicFetchAnd32 base off src
  | .atomicFetchAnd64 base off src => atomicFetchAnd64 base off src
  | .atomicFetchXor32 base off src => atomicFetchXor32 base off src
  | .atomicFetchXor64 base off src => atomicFetchXor64 base off src
  | .atomicXchg32 base off src => atomicXchg32 base off src
  | .atomicXchg64 base off src => atomicXchg64 base off src
  | .atomicCmpxchg32 base off src => atomicCmpxchg32 base off src
  | .atomicCmpxchg64 base off src => atomicCmpxchg64 base off src
  | .lddw dst imm next => lddw dst imm next
  | .ldMapFd dst imm => ldMapFd dst imm
  | .ldMapValFd dst imm next => ldMapValFd dst imm next
  | .ldVarAddr dst imm => ldVarAddr dst imm
  | .ldCodeAddr dst imm => ldCodeAddr dst imm
  | .ldMapIdx dst imm => ldMapIdx dst imm
  | .ldMapValIdx dst imm next => ldMapValIdx dst imm next

end

theorem decodeWide_fields {i : Instr} (h : i.wide = true) :
    i.fields.opcode = wideOpcode ∧ decodeWide i.fields i.nextImm = some i := by
  simpa [Laws.EncodedFields.Statement, h] using encodedFields_statement i

theorem decodeBasic_fields {i : Instr} (h : i.wide = false) :
    i.fields.opcode ≠ wideOpcode ∧ i.fields.legacy = false ∧ decodeBasic i.fields = some i := by
  simpa [Laws.EncodedFields.Statement, h] using encodedFields_statement i

/-! ### The decoder refuses a write of R10 -/

theorem Instr.wellFormed_eq_false {i : Instr} (h : i.writes = some Reg.fp) : i.wellFormed = false := by
  simp [Instr.wellFormed, h]

theorem accept_of_not_wellFormed {groups : List Group} {i : Instr} (h : i.wellFormed = false) :
    accept groups (some i) = .error .illegalEncoding := by
  simp [accept, h]

/-- Whatever `next_imm` is, a wide instruction writes the register `dst_reg` names. -/
theorem accept_decodeWide_of_writes_fp {groups : List Group} {f : Fields} {i : Instr}
    {next next' : BitVec 32} (hi : decodeWide f next = some i) (hfp : i.writes = some Reg.fp) :
    accept groups (decodeWide f next') = .error .illegalEncoding := by
  obtain ⟨-, -, d, hd, hwd⟩ := decodeWide_reading hi
  cases hj : decodeWide f next' with
  | none => rfl
  | some j =>
    obtain ⟨-, -, d', hd', hwd'⟩ := decodeWide_reading hj
    have hsame : some d' = some Reg.fp := by rw [← hd', hd, ← hwd, hfp]
    exact accept_of_not_wellFormed (Instr.wellFormed_eq_false (hwd'.trans hsame))

theorem decode_toSlot_of_writes_fp {i : Instr} (hfp : i.writes = some Reg.fp) (e : Endian)
    (groups : List Group) (b : Option Slot) :
    decode e groups (i.fields.toSlot e) b = .error .illegalEncoding := by
  cases hw : i.wide with
  | true =>
    obtain ⟨hop, hi⟩ := decodeWide_fields hw
    have ha : (i.fields.toSlot e).b0 = 0x18 := (Fields.toSlot_b0 e _).trans hop
    cases b with
    | none => exact decode_of_wide_none ha
    | some s =>
      rw [decode_of_wide ha, Slot.fields_toSlot, accept_decodeWide_of_writes_fp hi hfp, ite_self]
  | false =>
    obtain ⟨hop, hlegacy, hi⟩ := decodeBasic_fields hw
    have ha : (i.fields.toSlot e).b0 ≠ 0x18 := by rw [Fields.toSlot_b0]; exact hop
    rw [decode_of_basic ha, Slot.fields_toSlot, hlegacy, hi]
    exact accept_of_not_wellFormed (Instr.wellFormed_eq_false hfp)

/-! ### Which field names the register written -/

theorem Fields.ofTwoOperand_dst (code : BitVec 4) (cls : BitVec 3) (off : BitVec 16) (dst : Reg)
    (src : Src) : (Fields.ofTwoOperand code cls off dst src).dst = fieldOfReg dst := by
  cases src <;> rfl

/-- The arithmetic, load and 64-bit immediate instructions write the register `dst_reg` names. -/
theorem Instr.writes_eq_dst (i : Instr)
    (h : i.family = .arithmetic ∨ i.family = .load ∨ i.family = .imm64) :
    i.writes.map fieldOfReg = some i.fields.dst := by
  cases i <;> first
    | rfl
    | exact congrArg some (Fields.ofTwoOperand_dst _ _ _ _ _).symm
    | (obtain h | h | h := h <;> cases h)

/-- Bit 0 of `imm` is FETCH (43_atomic.md R250): an atomic that has it writes the register `src_reg`
names, one that has it not writes none. -/
theorem Instr.writes_of_atomic (i : Instr) (h : i.family = .atomic) :
    i.writes.map fieldOfReg = if i.fields.imm &&& 1 = 1 then some i.fields.src else none := by
  cases i <;> first
    | (cases h; done)
    | simp [Instr.writes, Instr.fields]

theorem Instr.writes_eq_none (i : Instr) (h : i.family = .jump ∨ i.family = .helperCall ∨
    i.family = .localCall ∨ i.family = .exit ∨ i.family = .store ∨ i.family = .compareExchange) :
    i.writes = none := by
  cases i <;> first
    | rfl
    | (obtain h | h | h | h | h | h := h <;> cases h)

end Sys2Proof

namespace Sys2Proof.Machine

theorem fetch_of_decode_error {s : State} {a : Slot} {err : DecodeError}
    (ha : s.program[s.pc]? = some a)
    (h : decode s.params.hostEndian s.params.groups a s.program[s.pc + 1]? = .error err) :
    fetch s = .error (faultOfDecode s.pc err) := by
  simp only [fetch, ha, h]

theorem step_of_writes_fp {s : State} {i : Instr} (hfp : i.writes = some Reg.fp)
    (hs : s.status = .running)
    (ha : s.program[s.pc]? = some (i.fields.toSlot s.params.hostEndian)) :
    step s = .fault (.illegalEncoding s.pc) := by
  have hfetch := fetch_of_decode_error ha
    (decode_toSlot_of_writes_fp hfp s.params.hostEndian s.params.groups s.program[s.pc + 1]?)
  rw [step_of_running hs, hfetch]
  rfl

/-- Settles O8: the field that names the register written, the decoder's refusal of R10 there
(`step_of_writes_fp`), and the frame of every instruction but `call_local` and `exit`. -/
theorem framePointerReadOnly : Obligations.FramePointerReadOnly := by
  refine ⟨Instr.writes_eq_dst, Instr.writes_of_atomic, Instr.writes_eq_none, ?_, ?_, ?_⟩
  · intro i s hfp hs ha
    exact step_of_writes_fp hfp hs ha
  · intro i hfp
    exact bne_iff_ne.2 hfp
  · intro s t i hs hfetch hcall hexit hstep
    obtain ⟨j, hj, hexec⟩ := step_next_of_running hs hstep
    cases hfetch.symm.trans hj
    obtain ⟨a, -, hd⟩ := fetch_ok hfetch
    exact (exec_keepsFrame hd.wellFormed hcall hexit hexec).fp

end Sys2Proof.Machine
end

section
/-! What instructions leave unchanged (10_state.md R23, R29; 40_arithmetic.md R120, R121) and the upper
half of 32-bit results (10_state.md R35). -/

namespace Sys2Proof

/-! ### Narrow results -/

/-- The instructions whose encoding names the register of a 32-bit result: class ALU but for the byte
swaps of width 64, the byte swaps of width 16 and 32, and the 32-bit atomics. -/
def Instr.HasNarrowResult (i : Instr) : Prop :=
  (i.family = .arithmetic ∧ i.fields.cls = clsAlu32 ∧ i.group ≠ some .base64) ∨
    i.group = some .base32 ∨ i.group = some .atomic32

theorem Fields.cls_opcodeOf (code : BitVec 4) (s : BitVec 1) (cls : BitVec 3) (dst src : BitVec 4)
    (off : BitVec 16) (imm : BitVec 32) :
    (Fields.mk (opcodeOf code s cls) dst src off imm).cls = cls := by
  simp only [Fields.cls, opcodeOf, extractLsb'_append_low]

theorem Fields.cls_ofTwoOperand (code : BitVec 4) (cls : BitVec 3) (off : BitVec 16) (dst : Reg)
    (src : Src) : (Fields.ofTwoOperand code cls off dst src).cls = cls := by
  cases src <;> exact Fields.cls_opcodeOf _ _ _ _ _ _ _

end Sys2Proof

namespace Sys2Proof.Machine

variable {i : Instr} {s t : State}

/-- A value whose upper half is zero (10_state.md R35). -/
def IsNarrow (c : RegContent) : Prop := ∃ v : Word32, c = .value (v.zeroExtend 64)

theorem isNarrow_setWidth {w : Nat} (hw : w ≤ 32) (v : BitVec w) :
    IsNarrow (.value (v.setWidth 64)) :=
  ⟨v.setWidth 32, congrArg _ (BitVec.setWidth_setWidth (by omega)).symm⟩

theorem isNarrow_writeReg {w : Nat} (hw : w ≤ 32) (s : State) (r : Reg) (v : BitVec w) (n : Nat) :
    IsNarrow (((s.writeReg r (v.setWidth 64)).advance n).reg r) := by
  rw [State.reg_advance, State.reg_writeReg_same]
  exact isNarrow_setWidth hw v

theorem exec_narrow_result {r : Reg} (h : exec i s = .next t) (hr : i.writes = some r)
    (hi : i.HasNarrowResult) : IsNarrow (t.reg r) := by
  cases i with
  | add32 dst src | sub32 dst src | mul32 dst src | div32 dst src | sdiv32 dst src
  | or32 dst src | and32 dst src | lsh32 dst src | rsh32 dst src | mod32 dst src
  | smod32 dst src | xor32 dst src | arsh32 dst src =>
    obtain ⟨a, b, -, -, rfl⟩ := alu32_next.1 h
    cases hr
    exact isNarrow_writeReg le_rfl _ _ _ _
  | mov32 dst src =>
    obtain ⟨v, -, h⟩ := orFault_next.1 h
    cases h
    cases hr
    exact isNarrow_writeReg le_rfl _ _ _ _
  | neg32 dst | le16 dst | le32 dst | be16 dst | be32 dst | bswap16 dst | bswap32 dst =>
    obtain ⟨a, -, rfl⟩ := aluUnary_next.1 h
    cases hr
    exact isNarrow_writeReg (by decide) _ _ _ _
  | movsx8_32 dst src | movsx16_32 dst src =>
    obtain ⟨v, -, rfl⟩ := moveExtended_next.1 h
    cases hr
    exact isNarrow_writeReg le_rfl _ _ _ _
  | atomicFetchAdd32 base off src | atomicFetchOr32 base off src | atomicFetchAnd32 base off src
  | atomicFetchXor32 base off src =>
    obtain ⟨b, v, -, -, -, rfl⟩ := atomicFetch_next.1 h
    cases hr
    exact isNarrow_writeReg le_rfl _ _ _ _
  | atomicXchg32 base off src =>
    obtain ⟨b, v, -, -, -, rfl⟩ := (atomicFetch_next (f := fun _ v => v)).1 h
    cases hr
    exact isNarrow_writeReg le_rfl _ _ _ _
  | atomicAdd32 | atomicOr32 | atomicAnd32 | atomicXor32 | atomicCmpxchg32 => cases hr
  | _ =>
    simp [Instr.HasNarrowResult, Instr.family, Instr.group, Instr.fields, Fields.cls_ofTwoOperand,
      Fields.cls_opcodeOf] at hi

theorem exec_compareExchange_narrow_result (h : exec i s = .next t)
    (hf : i.family = .compareExchange) (hg : i.group = some .atomic32) :
    IsNarrow (t.reg 0) := by
  cases i with
  | atomicCmpxchg32 base off src =>
    obtain ⟨b, v, r0, -, -, -, -, rfl⟩ := atomicCompare_next.1 h
    exact isNarrow_writeReg le_rfl _ _ _ _
  | atomicCmpxchg64 => cases hg
  | _ => cases hf

/-- Settles O38: by `exec_narrow_result` and `exec_compareExchange_narrow_result`. -/
theorem narrowResultsZeroTheUpperHalf : Obligations.NarrowResultsZeroTheUpperHalf :=
  fun _ _ _ h => ⟨fun _ hr hi => exec_narrow_result h hr hi,
    fun hf hg => exec_compareExchange_narrow_result h hf hg⟩

/-! ### Instructions with a register result -/

theorem exec_register_result (h : exec i s = .next t)
    (hf : i.family = .arithmetic ∨ i.family = .load ∨ i.family = .imm64) :
    ∃ r v, i.writes = some r ∧ t = (s.writeReg r v).advance i.slots := by
  rw [Instr.slots_eq]
  obtain hf | hf | hf := hf
  · simpa [hf] using exec_arithmetic hf h
  · simpa [hf] using exec_load hf h
  · simpa [hf] using exec_imm64 hf h

theorem keepsRegsBut_writeReg (s : State) (r : Reg) (v : Word) (n : Nat) :
    KeepsRegsBut s ((s.writeReg r v).advance n) [r] := by
  intro r' hr'
  exact s.reg_writeReg_other (List.ne_of_not_mem_cons hr') v

/-- Settles O37: such an instruction is one register write and an advance. -/
theorem registerResultFrame : Obligations.RegisterResultFrame := by
  intro i s t h hf
  obtain ⟨r, v, hr, rfl⟩ := exec_register_result h hf
  rw [hr]
  refine ⟨keepsRegsBut_writeReg s r v _, ?_, rfl, rfl, fun _ => rfl,
    ⟨rfl, rfl, rfl, rfl, rfl, rfl, rfl⟩, rfl⟩
  rintro r' ⟨⟩
  exact ⟨v, s.reg_writeReg_same r v⟩

/-! ### Helper calls -/

/-- Settles O45: the registers after a helper's `Return`, by `State.reg_afterHelper`. -/
theorem helperFrame : Obligations.HelperFrame := by
  intro i s t h hf
  obtain ⟨e, r, -, -, rfl⟩ := exec_helperCall hf h
  refine ⟨⟨r.r0, ?_⟩, ?_, ?_, rfl, rfl, rfl, rfl, rfl, rfl⟩
  · rw [State.reg_afterHelper, if_neg (by decide), if_pos rfl]
  · intro x hx
    rw [State.reg_afterHelper, if_pos hx]
  · intro x hx
    obtain ⟨h0, hargs⟩ := not_or.1 (mt List.mem_cons.2 hx)
    rw [State.reg_afterHelper, if_neg hargs, if_neg h0, State.reg_nextDraw]

/-! ### Program-local calls -/

theorem exec_exit_of_frame {v : Word} {f : Frame} {rest : List Frame} (h0 : s.reg 0 = .value v)
    (hstack : s.callStack = f :: rest) : exec .exit s = .next (s.leaveFunction f rest) :=
  execExit_next.2 ⟨v, h0, .inr ⟨f, rest, hstack, rfl⟩⟩

/-- The frame a call pushes gives R6 to R10 back when it is popped. -/
theorem reg_leaveFunction_callerFrame (s u : State) (rest : List Frame) {r : Reg}
    (hr : r ∈ ([6, 7, 8, 9, 10] : List Reg)) :
    (u.leaveFunction s.callerFrame rest).reg r = s.reg r := by
  rw [State.reg_leaveFunction]
  fin_cases hr <;> rfl

/-- Settles O48: the frame `exit` pops is the one `call_local` pushed. -/
theorem callThenExit : Obligations.CallThenExit := by
  intro imm s t u v hcall hstack h0
  obtain ⟨-, k, -, -, -, rfl⟩ := execCallLocal_next.1 hcall
  refine ⟨_, exec_exit_of_frame h0 hstack, rfl, rfl, ?_, ?_, ?_, fun _ => rfl,
    ⟨rfl, rfl, rfl, rfl, rfl, rfl, rfl⟩⟩
  · rw [State.reg_leaveFunction]
    exact h0
  · exact fun r hr => reg_leaveFunction_callerFrame s u _ hr
  · intro r hr
    rw [State.reg_leaveFunction, if_pos hr]

/-! ### The stacks of the frames (41_jump.md R203) -/

/-- Where FP0 leaves room for `d` stacks below it, the default frame pointer does not wrap. -/
theorem toNat_descendingFp {p : Params} {d : Nat} (h : d * p.stackSize ≤ p.fp0.toNat) :
    (descendingFp p d).toNat = p.fp0.toNat - d * p.stackSize := by
  have hlt : d * p.stackSize < 2 ^ 64 := lt_of_le_of_lt h p.fp0.isLt
  have hofNat : (BitVec.ofNat 64 (d * p.stackSize)).toNat = d * p.stackSize := by
    rw [BitVec.toNat_ofNat, Nat.mod_eq_of_lt hlt]
  rw [descendingFp, BitVec.toNat_sub_of_le (by rw [BitVec.le_def, hofNat]; exact h), hofNat]

theorem framePointer_of_descending {p : Params} (h : p.frameLayout = .descending) (d : Nat) :
    framePointer p d = descendingFp p d := by
  rw [framePointer, h]

/-- The stack of frame `d` ends where those of the deeper frames may begin. -/
theorem mul_add_stackSize_le {d e n : Nat} (h : d < e) : d * n + n ≤ e * n := by
  rw [← Nat.succ_mul]
  exact Nat.mul_le_mul_right n h

/-- Settles O49: frame pointers lie `stackSize` apart, all within the room below FP0. -/
theorem framesAreDisjoint : Obligations.FramesAreDisjoint := by
  intro p d e hlayout hroom hde he
  have hd' := mul_add_stackSize_le (n := p.stackSize) hde
  have he' := mul_add_stackSize_le (n := p.stackSize) he
  have hfd : (framePointer p d).toNat = p.fp0.toNat - d * p.stackSize := by
    rw [framePointer_of_descending hlayout, toNat_descendingFp (by omega)]
  have hfe : (framePointer p e).toNat = p.fp0.toNat - e * p.stackSize := by
    rw [framePointer_of_descending hlayout, toNat_descendingFp (by omega)]
  have hbase : (stackRange p).base = p.fp0.toNat - p.maxCallDepth * p.stackSize := rfl
  have hsize : (stackRange p).size = p.fp0.toNat - (stackRange p).base := rfl
  exact ⟨hfd, hfe, by omega, by omega, by omega⟩

end Sys2Proof.Machine
end

section
/-! A plain access as one check and then its effect (20_memory.md R55, R56): `memRead` and `memWrite`
share the check, so loads and stores do. -/

namespace Sys2Proof.Machine

theorem covered_iff_allIn {rs : List AddrRange} {a n : Nat} :
    covered rs a n = true ↔ AllIn rs a n := covered_iff

theorem not_alignedFor_iff {s : State} {a : Word} {n : Nat} :
    ¬AlignedFor s a n ↔ s.params.alignPolicy = .strict ∧ a.toNat % n ≠ 0 := by
  unfold AlignedFor
  cases s.params.alignPolicy <;> simp

/-- The checks of a plain access of `n` bytes at `a`, which must lie in the ranges `rs`: what R55 and
R56 have in common. -/
def plainCheck (s : State) (rs : List AddrRange) (kind : Access) (a : Word) (n : Nat) :
    Except Fault Unit :=
  if 2 ^ 64 < a.toNat + n then .error (.memAccess s.pc a n kind)
  else if s.params.alignPolicy = .strict ∧ a.toNat % n ≠ 0 then .error (.misaligned s.pc a n)
  else if covered rs a.toNat n = false then .error (.memAccess s.pc a n kind)
  else .ok ()

section

variable {s : State} {rs : List AddrRange} {kind : Access} {a : Word} {n : Nat}

theorem plainCheck_of_past_top (h : 2 ^ 64 < a.toNat + n) :
    plainCheck s rs kind a n = .error (.memAccess s.pc a n kind) := if_pos h

theorem plainCheck_of_misaligned (h : a.toNat + n ≤ 2 ^ 64) (ha : ¬AlignedFor s a n) :
    plainCheck s rs kind a n = .error (.misaligned s.pc a n) := by
  rw [plainCheck, if_neg h.not_gt, if_pos (not_alignedFor_iff.1 ha)]

theorem plainCheck_of_outside (h : a.toNat + n ≤ 2 ^ 64) (ha : AlignedFor s a n)
    (hr : ¬AllIn rs a.toNat n) : plainCheck s rs kind a n = .error (.memAccess s.pc a n kind) := by
  rw [← covered_iff_allIn, Bool.not_eq_true] at hr
  rw [plainCheck, if_neg h.not_gt, if_neg (fun hm => not_alignedFor_iff.2 hm ha), if_pos hr]

theorem plainCheck_of_allowed (h : PlainAllowed s rs a n) : plainCheck s rs kind a n = .ok () := by
  obtain ⟨htop, ha, hr⟩ := h
  rw [plainCheck, if_neg htop.not_gt, if_neg (fun hm => not_alignedFor_iff.2 hm ha),
    if_neg (by simp [covered_iff_allIn.2 hr])]

theorem allowed_of_plainCheck (h : plainCheck s rs kind a n = .ok ()) : PlainAllowed s rs a n := by
  by_cases htop : 2 ^ 64 < a.toNat + n
  · rw [plainCheck_of_past_top htop] at h; cases h
  by_cases ha : AlignedFor s a n
  · by_cases hr : AllIn rs a.toNat n
    · exact ⟨not_lt.1 htop, ha, hr⟩
    · rw [plainCheck_of_outside (not_lt.1 htop) ha hr] at h; cases h
  · rw [plainCheck_of_misaligned (not_lt.1 htop) ha] at h; cases h

/-- What goes on after the check faults as the check does, in its order. -/
theorem plainFaults_orFault_plainCheck (k : Unit → Result) :
    PlainFaults s rs kind a n (orFault (plainCheck s rs kind a n) k) := by
  refine ⟨fun h => ?_, fun h ha => ?_, fun h ha hr => ?_⟩
  · rw [plainCheck_of_past_top h, orFault_error]
  · rw [plainCheck_of_misaligned h ha, orFault_error]
  · rw [plainCheck_of_outside h ha hr, orFault_error]

end

theorem memRead_eq (s : State) (a : Word) (w : Nat) :
    memRead s a w =
      (plainCheck s s.memMap.readable .read a (w / 8)).map fun _ => s.loadValue a.toNat w := by
  unfold memRead plainCheck
  split_ifs <;> rfl

theorem memWrite_eq (s : State) (a : Word) {w : Nat} (v : BitVec w) :
    memWrite s a v =
      (plainCheck s s.memMap.writable .write a (w / 8)).map fun _ => s.storeValue a.toNat v := by
  unfold memWrite plainCheck
  split_ifs <;> rfl

theorem memRead_of_allowed {s : State} {a : Word} {w : Nat}
    (h : PlainAllowed s s.memMap.readable a (w / 8)) :
    memRead s a w = .ok (s.loadValue a.toNat w) := by
  rw [memRead_eq, plainCheck_of_allowed h]
  rfl

theorem memWrite_of_allowed {s : State} {a : Word} {w : Nat}
    (h : PlainAllowed s s.memMap.writable a (w / 8)) (v : BitVec w) :
    memWrite s a v = .ok (s.storeValue a.toNat v) := by
  rw [memWrite_eq, plainCheck_of_allowed h]
  rfl

theorem orFault_map {α β : Type} (r : Except Fault α) (f : α → β) (k : β → Result) :
    orFault (r.map f) k = orFault r fun a => k (f a) := by
  cases r <;> rfl

/-- A load reads its base, checks the access, and writes the value it loads. -/
theorem load_eq (w : Nat) (ext : BitVec w → Word) (dst base : Reg) (off : BitVec 16) (s : State) :
    load w ext dst base off s =
      orFault (readReg s base) fun b =>
      orFault (plainCheck s s.memMap.readable .read (effectiveAddress b off) (w / 8)) fun _ =>
      .next ((s.writeReg dst (ext (s.loadValue (effectiveAddress b off).toNat w))).advance 1) := by
  simp only [load, memRead_eq, orFault_map]

/-- A store whose operands are read checks the access and stores the value. -/
theorem store_eq {w : Nat} (b : Word) (off : BitVec 16) (v : BitVec w) (s : State) :
    store b off v s =
      orFault (plainCheck s s.memMap.writable .write (effectiveAddress b off) (w / 8)) fun _ =>
      .next ((s.storeValue (effectiveAddress b off).toNat v).advance 1) := by
  simp only [store, memWrite_eq, orFault_map]

end Sys2Proof.Machine
end

section
/-! What memory holds outside `Readable` never influences a step (20_memory.md R51, R55, R75): every
update of the state keeps `AgreeOnReadable`, every read and check of two states that agree gives the
same, and so the outcomes of an instruction do. -/

namespace Sys2Proof.Machine

variable {s t : State}

namespace AgreeOnReadable

/-! ### Two states that agree give the same reads and checks -/

theorem reg (h : AgreeOnReadable s t) (r : Reg) : t.reg r = s.reg r := by
  rw [State.reg, State.reg, h.regs]

theorem readReg (h : AgreeOnReadable s t) (r : Reg) :
    Machine.readReg t r = Machine.readReg s r := by
  rw [Machine.readReg, Machine.readReg, h.reg, h.pc]

theorem readReg32 (h : AgreeOnReadable s t) (r : Reg) :
    Machine.readReg32 t r = Machine.readReg32 s r := by
  rw [Machine.readReg32, Machine.readReg32, h.reg, h.pc]

theorem source64 (h : AgreeOnReadable s t) : ∀ src, Machine.source64 t src = Machine.source64 s src
  | .imm _ => rfl
  | .reg r => h.readReg r

theorem source32 (h : AgreeOnReadable s t) : ∀ src, Machine.source32 t src = Machine.source32 s src
  | .imm _ => rfl
  | .reg r => h.readReg32 r

theorem jumpTarget (h : AgreeOnReadable s t) (k : Int) :
    Machine.jumpTarget t k = Machine.jumpTarget s k := by
  rw [Machine.jumpTarget, Machine.jumpTarget, h.program, h.pc]

theorem relativeTarget (h : AgreeOnReadable s t) (d : Int) :
    Machine.relativeTarget t d = Machine.relativeTarget s d := by
  rw [Machine.relativeTarget, Machine.relativeTarget, h.pc]

theorem fetch (h : AgreeOnReadable s t) : Machine.fetch t = Machine.fetch s := by
  rw [Machine.fetch, Machine.fetch, h.program, h.pc, h.params]

theorem plainCheck (h : AgreeOnReadable s t) (rs : List AddrRange) (kind : Access) (a : Word)
    (n : Nat) : Machine.plainCheck t rs kind a n = Machine.plainCheck s rs kind a n := by
  rw [Machine.plainCheck, Machine.plainCheck, h.params, h.pc]

theorem atomicCheck (h : AgreeOnReadable s t) (a : Word) (n : Nat) :
    Machine.atomicCheck t a n = Machine.atomicCheck s a n := by
  rw [Machine.atomicCheck, Machine.atomicCheck, h.memMap, h.pc]

/-- A value that lies wholly in `Readable` loads the same. -/
theorem loadValue (h : AgreeOnReadable s t) {a w : Nat} (ha : AllIn s.memMap.readable a (w / 8)) :
    t.loadValue a w = s.loadValue a w :=
  State.loadValue_congr (by rw [h.params]) fun k hk => h.bytes _ (ha k hk)

theorem callerFrame (h : AgreeOnReadable s t) : t.callerFrame = s.callerFrame := by
  simp only [State.callerFrame, h.pc, h.reg]

/-! ### Updates keep the agreement -/

theorem setReg (h : AgreeOnReadable s t) (r : Reg) (c : RegContent) :
    AgreeOnReadable (s.setReg r c) (t.setReg r c) :=
  { h with regs := by rw [State.setReg, State.setReg, h.regs], bytes := h.bytes }

theorem writeReg (h : AgreeOnReadable s t) (r : Reg) (v : Word) :
    AgreeOnReadable (s.writeReg r v) (t.writeReg r v) := h.setReg r _

theorem clearRegs (h : AgreeOnReadable s t) (rs : List Reg) :
    AgreeOnReadable (s.clearRegs rs) (t.clearRegs rs) := by
  induction rs generalizing s t with
  | nil => exact h
  | cons r rs ih => exact ih (h.setReg r .noValue)

theorem setPc (h : AgreeOnReadable s t) (k : Nat) :
    AgreeOnReadable { s with pc := k } { t with pc := k } :=
  { h with pc := rfl, bytes := h.bytes }

theorem advance (h : AgreeOnReadable s t) (n : Nat) :
    AgreeOnReadable (s.advance n) (t.advance n) :=
  { h with pc := congrArg (· + n) h.pc, bytes := h.bytes }

theorem setStatus (h : AgreeOnReadable s t) (st : RunStatus) :
    AgreeOnReadable { s with status := st } { t with status := st } :=
  { h with status := rfl, bytes := h.bytes }

theorem setCallStack (h : AgreeOnReadable s t) {fs gs : List Frame} (hfs : gs = fs) :
    AgreeOnReadable { s with callStack := fs } { t with callStack := gs } :=
  { h with callStack := hfs, bytes := h.bytes }

/-- The bytes stored are the same and stand at the same addresses; outside them nothing changes. -/
theorem storeValue (h : AgreeOnReadable s t) (a : Nat) {w : Nat} (v : BitVec w) :
    AgreeOnReadable (s.storeValue a v) (t.storeValue a v) where
  __ := h
  bytes := by
    intro x hx
    by_cases hout : x < a ∨ a + w / 8 ≤ x
    · rw [State.byteAt_storeValue_outside _ _ _ _ hout, State.byteAt_storeValue_outside _ _ _ _ hout]
      exact h.bytes x hx
    · obtain ⟨k, rfl⟩ := Nat.exists_eq_add_of_le (show a ≤ x by omega)
      have hk : k < w / 8 := by omega
      simp only [State.byteAt_storeValue_inside _ _ _ k hk, h.params]

theorem enterFunction (h : AgreeOnReadable s t) (k : Nat) :
    AgreeOnReadable (s.enterFunction k) (t.enterFunction k) := by
  have hstack : t.callerFrame :: t.callStack = s.callerFrame :: s.callStack := by
    rw [h.callerFrame, h.callStack]
  have hfp : framePointer t.params (t.callerFrame :: t.callStack).length =
      framePointer s.params (s.callerFrame :: s.callStack).length := by
    rw [hstack, h.params]
  have hpush := (h.setCallStack hstack).setPc k
  simpa only [State.enterFunction, hfp] using (hpush.writeReg 10 _).clearRegs [0, 6, 7, 8, 9]

theorem leaveFunction (h : AgreeOnReadable s t) (f : Frame) (rest : List Frame) :
    AgreeOnReadable (s.leaveFunction f rest) (t.leaveFunction f rest) :=
  (((((((h.setCallStack (fs := rest) rfl).setPc f.ret).setReg 6 f.r6).setReg 7 f.r7).setReg 8
    f.r8).setReg 9 f.r9).setReg 10 f.r10).clearRegs [1, 2, 3, 4, 5]

end AgreeOnReadable

/-! ### The shared operations -/

/-- The same check or read, then what cannot be told apart where it passes. -/
theorem sameOutcome_orFault {α : Type} {r q : Except Fault α} {k l : α → Result} (hr : q = r)
    (hk : ∀ a, r = .ok a → SameOutcome (k a) (l a)) : SameOutcome (orFault r k) (orFault q l) := by
  subst hr
  cases q with
  | error f => exact rfl
  | ok a => exact hk a rfl

section Operations

variable (h : AgreeOnReadable s t)
include h

theorem sameOutcome_alu64 {f g : Word → Word → Word} (hfg : g = f) (dst : Reg) (src : Src) :
    SameOutcome (alu64 f dst src s) (alu64 g dst src t) := by
  subst hfg
  exact sameOutcome_orFault (h.readReg dst) fun _ _ =>
    sameOutcome_orFault (h.source64 src) fun _ _ => (h.writeReg dst _).advance 1

theorem sameOutcome_alu32 {f g : Word32 → Word32 → Word32} (hfg : g = f) (dst : Reg) (src : Src) :
    SameOutcome (alu32 f dst src s) (alu32 g dst src t) := by
  subst hfg
  exact sameOutcome_orFault (h.readReg32 dst) fun _ _ =>
    sameOutcome_orFault (h.source32 src) fun _ _ => (h.writeReg dst _).advance 1

theorem sameOutcome_aluUnary {f g : Word → Word} (hfg : g = f) (dst : Reg) :
    SameOutcome (aluUnary f dst s) (aluUnary g dst t) := by
  subst hfg
  exact sameOutcome_orFault (h.readReg dst) fun _ _ => (h.writeReg dst _).advance 1

theorem sameOutcome_moveExtended (f : Word → Word) (dst src : Reg) :
    SameOutcome (moveExtended f dst src s) (moveExtended f dst src t) :=
  sameOutcome_orFault (h.readReg src) fun _ _ => (h.writeReg dst _).advance 1

theorem sameOutcome_jumpBy (d : Int) : SameOutcome (jumpBy s d) (jumpBy t d) :=
  sameOutcome_orFault (by rw [h.relativeTarget, h.jumpTarget]) fun k _ => h.setPc k

theorem sameOutcome_branch (c : Bool) (d : Int) :
    SameOutcome (if c then jumpBy s d else .next (s.advance 1))
      (if c then jumpBy t d else .next (t.advance 1)) := by
  cases c with
  | true => exact sameOutcome_jumpBy h d
  | false => exact h.advance 1

theorem sameOutcome_jump64 (c : Word → Word → Bool) (dst : Reg) (src : Src) (off : BitVec 16) :
    SameOutcome (jump64 c dst src off s) (jump64 c dst src off t) :=
  sameOutcome_orFault (h.readReg dst) fun a _ =>
    sameOutcome_orFault (h.source64 src) fun b _ => sameOutcome_branch h (c a b) off.toInt

theorem sameOutcome_jump32 (c : Word32 → Word32 → Bool) (dst : Reg) (src : Src) (off : BitVec 16) :
    SameOutcome (jump32 c dst src off s) (jump32 c dst src off t) :=
  sameOutcome_orFault (h.readReg32 dst) fun a _ =>
    sameOutcome_orFault (h.source32 src) fun b _ => sameOutcome_branch h (c a b) off.toInt

/-- A load that passes its check reads bytes of `Readable` alone. -/
theorem sameOutcome_load (w : Nat) (ext : BitVec w → Word) (dst base : Reg) (off : BitVec 16) :
    SameOutcome (load w ext dst base off s) (load w ext dst base off t) := by
  rw [load_eq, load_eq, h.memMap]
  refine sameOutcome_orFault (h.readReg base) fun b _ =>
    sameOutcome_orFault (h.plainCheck _ _ _ _) fun _ hc => ?_
  obtain ⟨-, -, hread⟩ := allowed_of_plainCheck hc
  rw [h.loadValue hread]
  exact (h.writeReg dst _).advance 1

theorem sameOutcome_store {w : Nat} (b : Word) (off : BitVec 16) (v : BitVec w) :
    SameOutcome (store b off v s) (store b off v t) := by
  rw [store_eq, store_eq, h.memMap]
  exact sameOutcome_orFault (h.plainCheck _ _ _ _) fun _ _ => (h.storeValue _ v).advance 1

theorem sameOutcome_storeImm (w : Nat) (base : Reg) (off : BitVec 16) (imm : BitVec 32) :
    SameOutcome (storeImm w base off imm s) (storeImm w base off imm t) :=
  sameOutcome_orFault (h.readReg base) fun b _ => sameOutcome_store h b off _

theorem sameOutcome_storeReg (w : Nat) (base : Reg) (off : BitVec 16) (src : Reg) :
    SameOutcome (storeReg w base off src s) (storeReg w base off src t) :=
  sameOutcome_orFault (h.readReg base) fun b _ =>
    sameOutcome_orFault (h.readReg src) fun _ _ => sameOutcome_store h b off _

/-- The old value of an access that passes the checks of an atomic lies in `Readable`. -/
theorem loadValue_eq_of_atomicCheck {a : Word} {w : Nat}
    (hc : atomicCheck s a (w / 8) = .ok ()) : t.loadValue a.toNat w = s.loadValue a.toNat w := by
  obtain ⟨-, -, hread, -⟩ := atomicCheck_ok.1 hc
  exact h.loadValue (covered_iff_allIn.1 hread)

theorem sameOutcome_atomicUpdate {w : Nat} (f : BitVec w → BitVec w → BitVec w)
    {finish : BitVec w → State → State}
    (hfinish : ∀ old {u v}, AgreeOnReadable u v → AgreeOnReadable (finish old u) (finish old v))
    (base : Reg) (off : BitVec 16) (src : Reg) :
    SameOutcome (atomicUpdate w f finish base off src s)
      (atomicUpdate w f finish base off src t) := by
  refine sameOutcome_orFault (h.readReg base) fun b _ =>
    sameOutcome_orFault (h.readReg src) fun v _ =>
    sameOutcome_orFault (h.atomicCheck _ _) fun _ hc => ?_
  dsimp only
  rw [loadValue_eq_of_atomicCheck h hc]
  exact (hfinish _ (h.storeValue _ _)).advance 1

theorem sameOutcome_atomicPlain {w : Nat} (f : BitVec w → BitVec w → BitVec w) (base : Reg)
    (off : BitVec 16) (src : Reg) :
    SameOutcome (atomicPlain w f base off src s) (atomicPlain w f base off src t) :=
  sameOutcome_atomicUpdate h f (fun _ _ _ hu => hu) base off src

theorem sameOutcome_atomicFetch {w : Nat} (f : BitVec w → BitVec w → BitVec w) (base : Reg)
    (off : BitVec 16) (src : Reg) :
    SameOutcome (atomicFetch w f base off src s) (atomicFetch w f base off src t) :=
  sameOutcome_atomicUpdate h f (finish := fun old u => u.writeReg src (old.setWidth 64))
    (fun _ _ _ hu => hu.writeReg src _) base off src

theorem sameOutcome_atomicCompare (w : Nat) (base : Reg) (off : BitVec 16) (src : Reg) :
    SameOutcome (atomicCompare w base off src s) (atomicCompare w base off src t) := by
  refine sameOutcome_orFault (h.readReg base) fun b _ =>
    sameOutcome_orFault (h.readReg src) fun v _ =>
    sameOutcome_orFault (h.readReg 0) fun r0 _ =>
    sameOutcome_orFault (h.atomicCheck _ _) fun _ hc => ?_
  dsimp only
  rw [loadValue_eq_of_atomicCheck h hc]
  refine AgreeOnReadable.advance (.writeReg ?_ 0 _) 1
  split_ifs
  · exact h.storeValue _ _
  · exact h

theorem sameOutcome_loadPlatform {x y : Option Word} (hxy : y = x) (dst : Reg) (what : Feature) :
    SameOutcome (loadPlatform dst x what s) (loadPlatform dst y what t) := by
  subst hxy
  cases y with
  | none => exact congrArg (Fault.unsupported · what) h.pc.symm
  | some v => exact (h.writeReg dst v).advance 2

theorem sameOutcome_callLocal (imm : BitVec 32) :
    SameOutcome (execCallLocal imm s) (execCallLocal imm t) := by
  rw [execCallLocal, execCallLocal, h.params, h.callStack]
  split_ifs
  · exact congrArg Fault.callDepth h.pc.symm
  · exact sameOutcome_orFault (by rw [h.relativeTarget, h.jumpTarget]) fun k _ => h.enterFunction k

theorem sameOutcome_exit : SameOutcome (execExit s) (execExit t) := by
  refine sameOutcome_orFault (h.readReg 0) fun v _ => ?_
  rw [h.callStack]
  cases s.callStack with
  | nil => exact (h.setCallStack (fs := []) rfl).setStatus (.exited v)
  | cons f rest => exact h.leaveFunction f rest

/-! ### Every instruction but the helper calls -/

theorem exec_sameOutcome {i : Instr} (hi : i.family ≠ .helperCall) :
    SameOutcome (exec i s) (exec i t) := by
  cases i with
  | add64 dst src | sub64 dst src | mul64 dst src | div64 dst src | sdiv64 dst src
  | or64 dst src | and64 dst src | mod64 dst src | smod64 dst src | xor64 dst src =>
    exact sameOutcome_alu64 h rfl dst src
  | lsh64 dst src | rsh64 dst src | arsh64 dst src =>
    exact sameOutcome_alu64 h (by rw [h.params]) dst src
  | add32 dst src | sub32 dst src | mul32 dst src | div32 dst src | sdiv32 dst src
  | or32 dst src | and32 dst src | mod32 dst src | smod32 dst src | xor32 dst src =>
    exact sameOutcome_alu32 h rfl dst src
  | lsh32 dst src | rsh32 dst src | arsh32 dst src =>
    exact sameOutcome_alu32 h (by rw [h.params]) dst src
  | neg64 dst | neg32 dst | bswap16 dst | bswap32 dst | bswap64 dst =>
    exact sameOutcome_aluUnary h rfl dst
  | le16 dst | le32 dst | le64 dst | be16 dst | be32 dst | be64 dst =>
    exact sameOutcome_aluUnary h (by rw [h.params]) dst
  | movsx8_64 dst src | movsx16_64 dst src | movsx32_64 dst src | movsx8_32 dst src
  | movsx16_32 dst src =>
    exact sameOutcome_moveExtended h _ dst src
  | mov64 dst src =>
    exact sameOutcome_orFault (h.source64 src) fun _ _ => (h.writeReg dst _).advance 1
  | mov32 dst src =>
    exact sameOutcome_orFault (h.source32 src) fun _ _ => (h.writeReg dst _).advance 1
  | ja off | ja32 imm => exact sameOutcome_jumpBy h _
  | jeq64 dst src off | jgt64 dst src off | jge64 dst src off | jset64 dst src off
  | jne64 dst src off | jsgt64 dst src off | jsge64 dst src off | jlt64 dst src off
  | jle64 dst src off | jslt64 dst src off | jsle64 dst src off =>
    exact sameOutcome_jump64 h _ dst src off
  | jeq32 dst src off | jgt32 dst src off | jge32 dst src off | jset32 dst src off
  | jne32 dst src off | jsgt32 dst src off | jsge32 dst src off | jlt32 dst src off
  | jle32 dst src off | jslt32 dst src off | jsle32 dst src off =>
    exact sameOutcome_jump32 h _ dst src off
  | callHelper imm | callBtf imm => exact absurd rfl hi
  | callLocal imm => exact sameOutcome_callLocal h imm
  | exit => exact sameOutcome_exit h
  | ldxw dst base off | ldxh dst base off | ldxb dst base off | ldxdw dst base off
  | ldxsw dst base off | ldxsh dst base off | ldxsb dst base off =>
    exact sameOutcome_load h _ _ dst base off
  | stw base off imm | sth base off imm | stb base off imm | stdw base off imm =>
    exact sameOutcome_storeImm h _ base off imm
  | stxw base off src | stxh base off src | stxb base off src | stxdw base off src =>
    exact sameOutcome_storeReg h _ base off src
  | atomicAdd32 base off src | atomicOr32 base off src | atomicAnd32 base off src
  | atomicXor32 base off src | atomicAdd64 base off src | atomicOr64 base off src
  | atomicAnd64 base off src | atomicXor64 base off src =>
    exact sameOutcome_atomicPlain h _ base off src
  | atomicFetchAdd32 base off src | atomicFetchOr32 base off src | atomicFetchAnd32 base off src
  | atomicFetchXor32 base off src | atomicFetchAdd64 base off src | atomicFetchOr64 base off src
  | atomicFetchAnd64 base off src | atomicFetchXor64 base off src =>
    exact sameOutcome_atomicFetch h _ base off src
  | atomicXchg32 base off src | atomicXchg64 base off src =>
    exact sameOutcome_atomicFetch h (fun _ v => v) base off src
  | atomicCmpxchg32 base off src | atomicCmpxchg64 base off src =>
    exact sameOutcome_atomicCompare h _ base off src
  | lddw dst imm next => exact (h.writeReg dst _).advance 2
  | ldMapFd dst imm | ldMapValFd dst imm next | ldVarAddr dst imm | ldMapIdx dst imm
  | ldMapValIdx dst imm next =>
    exact sameOutcome_loadPlatform h (by rw [h.params]) dst _
  | ldCodeAddr dst imm => exact sameOutcome_loadPlatform h (by rw [h.params, h.pc]) dst _

end Operations

/-- Settles O23: the two states fetch the same instruction, and `exec_sameOutcome`. -/
theorem unreadableMemoryIsInvisible : Obligations.UnreadableMemoryIsInvisible := by
  intro s t h hi
  cases hs : s.status with
  | exited v =>
    rw [step_of_exited hs, step_of_exited (h.status.trans hs)]
    exact h
  | faulted f =>
    rw [step_of_faulted hs, step_of_faulted (h.status.trans hs)]
    exact rfl
  | running =>
    rw [step_of_running hs, step_of_running (h.status.trans hs)]
    exact sameOutcome_orFault h.fetch fun i hfetch => exec_sameOutcome h (hi i hfetch)

end Sys2Proof.Machine
end

section
/-! What a step leaves of memory and of the rest of the state: everything, where the instruction is no
store, no atomic and no helper call (20_memory.md R50, R61); all but the bytes of its access and its
result register, where it is a store or an atomic (R52, R58). -/

namespace Sys2Proof

/-- The instructions that write memory themselves: stores, atomics and CMPXCHG. -/
def Instr.WritesMemory (i : Instr) : Prop :=
  i.family = .store ∨ i.family = .atomic ∨ i.family = .compareExchange

/-- The registers a store or an atomic may change: `src` of a FETCH form or XCHG, R0 of CMPXCHG
(43_atomic.md R252, R253). -/
def Instr.resultRegs (i : Instr) : List Reg :=
  if i.family = .compareExchange then [0] else i.writes.toList

end Sys2Proof

namespace Sys2Proof.Machine

variable {i : Instr} {s t : State}

/-! ### Instructions that write no memory -/

/-- Memory as data, MEMMAP and what no step changes are as they were. -/
structure KeepsMemory (s t : State) : Prop where
  mem : t.mem = s.mem
  memMap : t.memMap = s.memMap
  memSeed : t.memSeed = s.memSeed
  program : t.program = s.program
  params : t.params = s.params

theorem KeepsMemory.keepsBytes (h : KeepsMemory s t) : KeepsBytes s t :=
  State.byteAt_congr h.mem h.memSeed

theorem exec_keepsMemory (hw : ¬i.WritesMemory) (hh : i.family ≠ .helperCall)
    (h : exec i s = .next t) : KeepsMemory s t := by
  cases hf : i.family with
  | arithmetic =>
    obtain ⟨r, v, -, rfl⟩ := exec_arithmetic hf h
    exact ⟨rfl, rfl, rfl, rfl, rfl⟩
  | jump =>
    obtain rfl | ⟨k, rfl, -, -⟩ := exec_jump hf h
    · exact ⟨rfl, rfl, rfl, rfl, rfl⟩
    · exact ⟨rfl, rfl, rfl, rfl, rfl⟩
  | localCall =>
    obtain ⟨-, k, -, -, rfl⟩ := exec_localCall hf h
    exact ⟨rfl, rfl, rfl, rfl, rfl⟩
  | exit =>
    obtain ⟨-, v, -, ⟨-, rfl⟩ | ⟨f, rest, -, rfl⟩⟩ := exec_exit hf h
    · exact ⟨rfl, rfl, rfl, rfl, rfl⟩
    · exact ⟨rfl, rfl, rfl, rfl, rfl⟩
  | load =>
    obtain ⟨r, v, -, rfl⟩ := exec_load hf h
    exact ⟨rfl, rfl, rfl, rfl, rfl⟩
  | imm64 =>
    obtain ⟨r, v, -, rfl⟩ := exec_imm64 hf h
    exact ⟨rfl, rfl, rfl, rfl, rfl⟩
  | helperCall => exact absurd hf hh
  | store => exact absurd (.inl hf) hw
  | atomic => exact absurd (.inr (.inl hf)) hw
  | compareExchange => exact absurd (.inr (.inr hf)) hw

/-! ### Stores and atomics -/

/-- Only the bytes of `[a, a + n)`, the registers `rs` and `pc` may differ. -/
structure ChangesOnly (s t : State) (a n : Nat) (rs : List Reg) : Prop where
  bytes : KeepsBytesOutside s t a n
  regs : KeepsRegsBut s t rs
  callStack : t.callStack = s.callStack
  run : KeepsRun s t

namespace ChangesOnly

variable {a n : Nat} {rs : List Reg}

theorem refl (s : State) (a n : Nat) (rs : List Reg) : ChangesOnly s s a n rs :=
  ⟨fun _ _ => rfl, fun _ _ => rfl, rfl, ⟨rfl, rfl, rfl, rfl, rfl, rfl, rfl⟩⟩

theorem advance (h : ChangesOnly s t a n rs) (k : Nat) : ChangesOnly s (t.advance k) a n rs :=
  ⟨h.bytes, h.regs, h.callStack, h.run⟩

theorem writeReg (h : ChangesOnly s t a n rs) {r : Reg} (hr : r ∈ rs) (v : Word) :
    ChangesOnly s (t.writeReg r v) a n rs where
  bytes := h.bytes
  regs r' hr' := by
    have hne : r' ≠ r := fun he => hr' (he ▸ hr)
    rw [t.reg_writeReg_other hne, h.regs r' hr']
  callStack := h.callStack
  run := h.run

theorem storeValue (h : ChangesOnly s t a n rs) {w : Nat} (hw : w / 8 = n) (v : BitVec w) :
    ChangesOnly s (t.storeValue a v) a n rs where
  bytes x hx := by
    rw [t.byteAt_storeValue_outside a v x (by rwa [hw]), h.bytes x hx]
  regs := h.regs
  callStack := h.callStack
  run := h.run

end ChangesOnly

/-- A store or atomic that goes on had an address in its base register, its access lies in `Writable`,
and it changes only the bytes there, its result register and `pc`. -/
theorem exec_changesOnly (hw : i.WritesMemory) (h : exec i s = .next t) :
    ∃ (m : MemOperand) (b : Word), i.memOperand = some m ∧ s.reg m.base = .value b ∧
      AllIn s.memMap.writable (effectiveAddress b m.off).toNat m.size ∧
      ChangesOnly s t (effectiveAddress b m.off).toNat m.size i.resultRegs ∧ t.pc = s.pc + 1 := by
  obtain hf | hf | hf := hw
  · obtain ⟨m, b, w, v, hm, hn, hb, -, hc, rfl⟩ := exec_store hf h
    exact ⟨m, b, hm, hb, covered_iff_allIn.1 hc,
      ((ChangesOnly.refl _ _ _ _).storeValue hn v).advance 1, rfl⟩
  · obtain ⟨m, b, w, v, hm, hn, hb, -, -, hc, ⟨-, rfl⟩ | ⟨r, hr, rfl⟩⟩ := exec_atomic hf h
    · exact ⟨m, b, hm, hb, covered_iff_allIn.1 hc,
        ((ChangesOnly.refl _ _ _ _).storeValue hn v).advance 1, rfl⟩
    · have hmem : r ∈ i.resultRegs := by simp [Instr.resultRegs, hf, hr]
      exact ⟨m, b, hm, hb, covered_iff_allIn.1 hc,
        (((ChangesOnly.refl _ _ _ _).storeValue hn v).writeReg hmem _).advance 1, rfl⟩
  · have hmem : 0 ∈ i.resultRegs := by simp [Instr.resultRegs, hf]
    obtain ⟨m, b, w, v, u, hm, hn, hb, -, -, hc, rfl | rfl, rfl⟩ := exec_compareExchange hf h
    · exact ⟨m, b, hm, hb, covered_iff_allIn.1 hc,
        ((ChangesOnly.refl _ _ _ _).writeReg hmem _).advance 1, rfl⟩
    · exact ⟨m, b, hm, hb, covered_iff_allIn.1 hc,
        (((ChangesOnly.refl _ _ _ _).storeValue hn v).writeReg hmem _).advance 1, rfl⟩

/-! ### Steps -/

/-- A step that goes on leaves an ended machine as it is, or executes the instruction fetched. -/
theorem step_next (h : step s = .next t) : t = s ∨ ∃ i, fetch s = .ok i ∧ exec i s = .next t := by
  cases hs : s.status with
  | running => exact .inr (step_next_of_running hs h)
  | exited v =>
    rw [step_of_exited hs] at h
    exact .inl (next_eq.1 h)
  | faulted f =>
    rw [step_of_faulted hs] at h
    cases h

/-- Settles O17: no instruction changes the program, the parameters or `memSeed`, a helper's `Return`
included. -/
theorem programNeverChanges : Obligations.ProgramNeverChanges := by
  intro s t h
  obtain rfl | ⟨i, -, hexec⟩ := step_next h
  · exact ⟨rfl, rfl, rfl⟩
  by_cases hh : i.family = .helperCall
  · obtain ⟨e, r, -, -, rfl⟩ := exec_helperCall hh hexec
    exact ⟨rfl, rfl, rfl⟩
  by_cases hw : i.WritesMemory
  · obtain ⟨m, b, -, -, -, hkeep, -⟩ := exec_changesOnly hw hexec
    obtain ⟨hprogram, hparams, -, -, -, -, hseed⟩ := hkeep.run
    exact ⟨hprogram, hparams, hseed⟩
  · have hkeep := exec_keepsMemory hw hh hexec
    exact ⟨hkeep.program, hkeep.params, hkeep.memSeed⟩

/-- Settles O21: `exec_keepsMemory`. -/
theorem memoryChangesOnlyByStores : Obligations.MemoryChangesOnlyByStores := by
  intro i s t h hstore hatomic hcmp hh
  have hw : ¬i.WritesMemory := by
    rintro (hf | hf | hf)
    · exact hstore hf
    · exact hatomic hf
    · exact hcmp hf
  have hkeep := exec_keepsMemory hw hh h
  exact ⟨hkeep.mem, hkeep.memMap, hkeep.keepsBytes⟩

/-- A byte outside every range is outside an access that lies in them. -/
theorem AllIn.outside {rs : List AddrRange} {a n x : Nat} (h : AllIn rs a n)
    (hx : ¬InRanges rs x) : x < a ∨ a + n ≤ x := by
  by_contra hin
  obtain ⟨k, rfl⟩ := Nat.exists_eq_add_of_le (show a ≤ x by omega)
  exact hx (h k (by omega))

/-- Settles O22: a store or atomic changes only bytes of an access that lies in `Writable`, any other
instruction none. -/
theorem writesStayInWritable : Obligations.WritesStayInWritable := by
  intro s t h hi
  obtain rfl | ⟨i, hfetch, hexec⟩ := step_next h
  · exact ⟨rfl, fun _ _ => rfl⟩
  by_cases hw : i.WritesMemory
  · obtain ⟨m, b, -, -, hin, hkeep, -⟩ := exec_changesOnly hw hexec
    obtain ⟨-, -, -, hmap, -⟩ := hkeep.run
    exact ⟨hmap, fun x hx => hkeep.bytes x (hin.outside hx)⟩
  · have hkeep := exec_keepsMemory hw (hi i hfetch) hexec
    exact ⟨hkeep.memMap, fun x _ => hkeep.keepsBytes x⟩

/-- Settles O52: `exec_changesOnly`, with the result register spelt out. -/
theorem memoryFrame : Obligations.MemoryFrame := by
  intro i s t m h hm hw
  obtain ⟨m', b, hm', hb, -, hkeep, hpc⟩ := exec_changesOnly hw h
  cases hm.symm.trans hm'
  refine ⟨⟨b, hb, hkeep.bytes⟩, fun hf => ?_, fun hf => ?_, hkeep.callStack, hpc, hkeep.run⟩
  · simpa only [Instr.resultRegs, if_neg hf] using hkeep.regs
  · simpa only [Instr.resultRegs, if_pos hf] using hkeep.regs

end Sys2Proof.Machine
end

section
/-! Loads and stores (42_load_store.md R222, R223): each row of the obligations from the equations of
`load` and `store`, and what a read sees of an earlier write, of its own width or of another
(20_memory.md R59, R61). -/

namespace Sys2Proof.Machine

variable {s t : State} {b v : Word} {base src dst : Reg} {off : BitVec 16} {w : Nat}

/-! ### Loads -/

theorem load_of_value (hb : s.reg base = .value b) (ext : BitVec w → Word) :
    load w ext dst base off s =
      orFault (plainCheck s s.memMap.readable .read (effectiveAddress b off) (w / 8)) fun _ =>
      .next ((s.writeReg dst (ext (s.loadValue (effectiveAddress b off).toNat w))).advance 1) := by
  rw [load_eq, readReg_of_value hb, orFault_ok]

theorem load_of_allowed (hb : s.reg base = .value b) (ext : BitVec w → Word)
    (h : PlainAllowed s s.memMap.readable (effectiveAddress b off) (w / 8)) :
    load w ext dst base off s =
      .next ((s.writeReg dst (ext (s.loadValue (effectiveAddress b off).toNat w))).advance 1) := by
  rw [load_of_value hb, plainCheck_of_allowed h, orFault_ok]

/-- An instruction that is `load` at a width of whole bytes has the row of a load. -/
theorem loadRow_of_load {c : Reg → Reg → BitVec 16 → Instr} {opcode : BitVec 8}
    {ext : BitVec w → Word} (hw : w / 8 * 8 = w)
    (hfields : ∀ dst base off,
      (c dst base off).fields = ⟨opcode, fieldOfReg dst, fieldOfReg base, off, 0⟩)
    (hexec : ∀ dst base off s, exec (c dst base off) s = load w ext dst base off s) :
    LoadRow c opcode w ext := by
  intro dst base off s
  rw [hexec]
  refine ⟨hfields dst base off, fun hb => ?_, fun b hb => ⟨fun v hallowed hspells => ?_, ?_⟩⟩
  · rw [load_eq, readReg_of_noValue hb, orFault_error]
  · rw [load_of_allowed hb ext hallowed, (spells_iff_eq_loadValue _ _ hw v).1 hspells]
    rfl
  · rw [load_of_value hb]
    exact plainFaults_orFault_plainCheck _

/-- Settles O50: each of the seven is `load` at its width and extension. -/
theorem loads : Obligations.Loads :=
  ⟨loadRow_of_load rfl (fun _ _ _ => rfl) fun _ _ _ _ => rfl,
    loadRow_of_load rfl (fun _ _ _ => rfl) fun _ _ _ _ => rfl,
    loadRow_of_load rfl (fun _ _ _ => rfl) fun _ _ _ _ => rfl,
    loadRow_of_load rfl (fun _ _ _ => rfl) fun _ _ _ _ => by
      simp only [exec, execLdxdw, BitVec.setWidth_eq],
    loadRow_of_load rfl (fun _ _ _ => rfl) fun _ _ _ _ => rfl,
    loadRow_of_load rfl (fun _ _ _ => rfl) fun _ _ _ _ => rfl,
    loadRow_of_load rfl (fun _ _ _ => rfl) fun _ _ _ _ => rfl⟩

/-! ### Stores -/

theorem storeValue_keepsBytesOutside (s : State) (a : Nat) (v : BitVec w) :
    KeepsBytesOutside s (s.storeValue a v) a (w / 8) :=
  fun x hx => s.byteAt_storeValue_outside a v x hx

theorem store_of_allowed {v : BitVec w}
    (h : PlainAllowed s s.memMap.writable (effectiveAddress b off) (w / 8)) :
    store b off v s = .next ((s.storeValue (effectiveAddress b off).toNat v).advance 1) := by
  rw [store_eq, plainCheck_of_allowed h, orFault_ok]

theorem stores_store (s : State) (b : Word) (off : BitVec 16) (v : BitVec w) :
    Stores s (effectiveAddress b off) v (store b off v s) := by
  refine ⟨fun h => ⟨_, store_of_allowed h, spells_storeValue s _ v,
    storeValue_keepsBytesOutside s _ v, rfl, rfl, rfl, ⟨rfl, rfl, rfl, rfl, rfl, rfl, rfl⟩⟩, ?_⟩
  rw [store_eq]
  exact plainFaults_orFault_plainCheck _

theorem storeReg_of_values (hb : s.reg base = .value b) (hv : s.reg src = .value v) :
    storeReg w base off src s = store b off (v.setWidth w) s := by
  rw [storeReg, readReg_of_value hb, readReg_of_value hv, orFault_ok, orFault_ok]

theorem storeImmRow_of_storeImm {c : Reg → BitVec 16 → BitVec 32 → Instr} {opcode : BitVec 8}
    (hw : w ≤ 64)
    (hfields : ∀ base off imm, (c base off imm).fields = ⟨opcode, fieldOfReg base, 0, off, imm⟩)
    (hexec : ∀ base off imm s, exec (c base off imm) s = storeImm w base off imm s) :
    StoreImmRow c opcode w := by
  intro base off imm s
  rw [hexec]
  refine ⟨hfields base off imm, fun hb => ?_, fun b hb => ?_⟩
  · rw [storeImm, readReg_of_noValue hb, orFault_error]
  · rw [storeImm, readReg_of_value hb, orFault_ok, ← BitVec.setWidth_eq_extractLsb' hw]
    exact stores_store s b off _

theorem storeRegRow_of_storeReg {c : Reg → BitVec 16 → Reg → Instr} {opcode : BitVec 8}
    (hw : w ≤ 64)
    (hfields : ∀ base off src,
      (c base off src).fields = ⟨opcode, fieldOfReg base, fieldOfReg src, off, 0⟩)
    (hexec : ∀ base off src s, exec (c base off src) s = storeReg w base off src s) :
    StoreRegRow c opcode w := by
  intro base off src s
  rw [hexec]
  refine ⟨hfields base off src, fun hb => ?_, fun b hb hsrc => ?_, fun b v hb hv => ?_⟩
  · rw [storeReg, readReg_of_noValue hb, orFault_error]
  · rw [storeReg, readReg_of_value hb, readReg_of_noValue hsrc, orFault_ok, orFault_error]
  · rw [storeReg_of_values hb hv, ← BitVec.setWidth_eq_extractLsb' hw]
    exact stores_store s b off _

/-- Settles O51: each of the eight is `storeImm` or `storeReg` at its width. -/
theorem stores : Obligations.Stores :=
  ⟨storeImmRow_of_storeImm (by decide) (fun _ _ _ => rfl) fun _ _ _ _ => rfl,
    storeImmRow_of_storeImm (by decide) (fun _ _ _ => rfl) fun _ _ _ _ => rfl,
    storeImmRow_of_storeImm (by decide) (fun _ _ _ => rfl) fun _ _ _ _ => rfl,
    storeImmRow_of_storeImm (by decide) (fun _ _ _ => rfl) fun _ _ _ _ => rfl,
    storeRegRow_of_storeReg (by decide) (fun _ _ _ => rfl) fun _ _ _ _ => rfl,
    storeRegRow_of_storeReg (by decide) (fun _ _ _ => rfl) fun _ _ _ _ => rfl,
    storeRegRow_of_storeReg (by decide) (fun _ _ _ => rfl) fun _ _ _ _ => rfl,
    storeRegRow_of_storeReg (by decide) (fun _ _ _ => rfl) fun _ _ _ _ => rfl⟩

/-! ### A load after a store of the same width -/

/-- The state after a store of the low `w` bits of `v` through an address `b + sext(off)`. -/
def afterStore (w : Nat) (s : State) (b : Word) (off : BitVec 16) (v : Word) : State :=
  (s.storeValue (effectiveAddress b off).toNat (v.setWidth w)).advance 1

theorem storeReg_of_allowed (hb : s.reg base = .value b) (hv : s.reg src = .value v)
    (h : PlainAllowed s s.memMap.writable (effectiveAddress b off) (w / 8)) :
    storeReg w base off src s = .next (afterStore w s b off v) := by
  rw [storeReg_of_values hb hv, store_of_allowed h, afterStore]

/-- The store changes neither the base register nor what the access is allowed. -/
theorem load_afterStore (hw : w / 8 * 8 = w) (hw64 : w ≤ 64) (hb : s.reg base = .value b)
    (h : PlainAllowed s s.memMap.readable (effectiveAddress b off) (w / 8))
    (ext : BitVec w → Word) :
    load w ext dst base off (afterStore w s b off v) =
      .next (((afterStore w s b off v).writeReg dst (ext (v.extractLsb' 0 w))).advance 1) := by
  have hb' : (afterStore w s b off v).reg base = .value b := hb
  have h' : PlainAllowed (afterStore w s b off v) (afterStore w s b off v).memMap.readable
      (effectiveAddress b off) (w / 8) := h
  have hvalue : (afterStore w s b off v).loadValue (effectiveAddress b off).toNat w =
      v.extractLsb' 0 w := by
    rw [afterStore, State.loadValue_advance, State.loadValue_storeValue _ _ _ hw,
      BitVec.setWidth_eq_extractLsb' hw64]
  rw [load_of_allowed hb' ext h', hvalue]

/-- Settles O53: `storeReg_of_allowed` and `load_afterStore` at each width. -/
theorem storeThenLoad : Obligations.StoreThenLoad := by
  rintro base src dst off s b v hb hv n (rfl | rfl | rfl | rfl) hwrite hread
  · refine ⟨_, storeReg_of_allowed (w := 8) hb hv hwrite, fun _ => ⟨?_, ?_⟩, nofun, nofun, nofun⟩
    · exact load_afterStore (w := 8) rfl (by decide) hb hread _
    · exact load_afterStore (w := 8) rfl (by decide) hb hread _
  · refine ⟨_, storeReg_of_allowed (w := 16) hb hv hwrite, nofun, fun _ => ⟨?_, ?_⟩, nofun, nofun⟩
    · exact load_afterStore (w := 16) rfl (by decide) hb hread _
    · exact load_afterStore (w := 16) rfl (by decide) hb hread _
  · refine ⟨_, storeReg_of_allowed (w := 32) hb hv hwrite, nofun, nofun, fun _ => ⟨?_, ?_⟩, nofun⟩
    · exact load_afterStore (w := 32) rfl (by decide) hb hread _
    · exact load_afterStore (w := 32) rfl (by decide) hb hread _
  · refine ⟨_, storeReg_of_allowed (w := 64) hb hv hwrite, nofun, nofun, nofun, fun _ => ?_⟩
    have hload := load_afterStore (w := 64) (dst := dst) (v := v) rfl le_rfl hb hread
      (BitVec.setWidth 64)
    rwa [← BitVec.setWidth_eq_extractLsb' le_rfl, BitVec.setWidth_eq, BitVec.setWidth_eq] at hload

/-! ### Accesses of different widths -/

/-- The lowest of the bytes of an `n`-byte value that an access of `m` bytes sees `d` bytes above its
address (20_memory.md R53). -/
def lowestByteSeen (e : Endian) (n d m : Nat) : Nat :=
  match e with
  | .le => d
  | .be => n - d - m

theorem byteAddress_add (e : Endian) (a : Nat) {n d m k : Nat} (hd : d + m ≤ n) (hk : k < m) :
    byteAddress e (a + d) m k = byteAddress e a n (lowestByteSeen e n d m + k) ∧
      lowestByteSeen e n d m + k < n := by
  cases e <;> simp only [byteAddress, lowestByteSeen] <;> omega

theorem extractLsb'_byte_extractLsb' (v : BitVec w) {w' j k : Nat} (hk : k < w' / 8) :
    (v.extractLsb' (8 * j) w').extractLsb' (8 * k) 8 = v.extractLsb' (8 * (j + k)) 8 := by
  apply BitVec.eq_of_getLsbD_eq
  intro i hi
  simp only [BitVec.getLsbD_extractLsb', hi, show 8 * k + i < w' by omega, decide_true,
    Bool.true_and]
  congr 1
  omega

/-- Bytes that spell a value spell, within it, the part of the value whose bytes are there. -/
theorem Spells.part {a : Nat} {v : BitVec w} (h : Spells t a v) {d w' : Nat}
    (hd : d + w' / 8 ≤ w / 8) :
    Spells t (a + d)
      (v.extractLsb' (8 * lowestByteSeen t.params.hostEndian (w / 8) d (w' / 8)) w') := by
  intro k hk
  obtain ⟨haddr, hlt⟩ := byteAddress_add t.params.hostEndian a hd hk
  rw [haddr, h _ hlt, extractLsb'_byte_extractLsb' v hk]

/-- Within an allowed access addresses do not wrap. -/
theorem PlainAllowed.toNat_add {rs : List AddrRange} {a : Word} {n d : Nat}
    (h : PlainAllowed s rs a n) (hd : d < n) : (a + BitVec.ofNat 64 d).toNat = a.toNat + d := by
  obtain ⟨htop, -, -⟩ := h
  rw [BitVec.toNat_add, BitVec.toNat_ofNat]
  omega

/-- Every aligned access within an allowed one is allowed. -/
theorem PlainAllowed.part {rs : List AddrRange} {a : Word} {n d m : Nat}
    (h : PlainAllowed s rs a n) (hm : 0 < m) (hd : d + m ≤ n) (halign : (a.toNat + d) % m = 0) :
    PlainAllowed s rs (a + BitVec.ofNat 64 d) m := by
  have haddr := h.toNat_add (d := d) (by omega)
  obtain ⟨htop, -, hin⟩ := h
  refine ⟨by omega, .inr (by rw [haddr, halign]), fun k hk => ?_⟩
  rw [haddr, Nat.add_assoc]
  exact hin (d + k) (by omega)

/-- An aligned read within an allowed access gives its part of the value spelled there. -/
theorem memRead_part {a : Word} {v : BitVec w} {d w' : Nat} (hw' : w' / 8 * 8 = w')
    (h : PlainAllowed t t.memMap.readable a (w / 8)) (hspells : Spells t a.toNat v)
    (hpos : 0 < w' / 8) (hd : d + w' / 8 ≤ w / 8) (halign : (a.toNat + d) % (w' / 8) = 0) :
    memRead t (a + BitVec.ofNat 64 d) w' =
      .ok (v.extractLsb' (8 * lowestByteSeen t.params.hostEndian (w / 8) d (w' / 8)) w') := by
  rw [memRead_of_allowed (h.part hpos hd halign), h.toNat_add (by omega),
    (spells_iff_eq_loadValue t _ hw' _).1 (hspells.part hd)]

theorem whole_bytes_of_access_width (hw : w ∈ [8, 16, 32, 64]) : w / 8 * 8 = w := by
  simp only [List.mem_cons, List.not_mem_nil, or_false] at hw
  omega

/-- A read after a write, of any two widths: the bytes are those the write left. -/
theorem memRead_memWrite {a c : Word} {w' : Nat} (v : BitVec w) (hw' : w' / 8 * 8 = w')
    (hwrite : PlainAllowed s s.memMap.writable a (w / 8))
    (hread : PlainAllowed s s.memMap.readable c (w' / 8)) :
    ∃ t u, memWrite s a v = .ok t ∧ Spells t a.toNat v ∧ KeepsBytesOutside s t a.toNat (w / 8) ∧
      memRead t c w' = .ok u ∧ Spells t c.toNat u := by
  have hread' : PlainAllowed (s.storeValue a.toNat v) (s.storeValue a.toNat v).memMap.readable c
      (w' / 8) := hread
  exact ⟨_, _, memWrite_of_allowed hwrite v, spells_storeValue s _ v,
    storeValue_keepsBytesOutside s _ v, memRead_of_allowed hread', spells_loadValue _ _ hw'⟩

/-- Settles O54: `memRead_memWrite`, and `memRead_part` for the worked example of R59. -/
theorem mixedWidthAccess : Obligations.MixedWidthAccess := by
  refine ⟨fun s a c w w' v _ hw' hwrite hread =>
    memRead_memWrite v (whole_bytes_of_access_width hw') hwrite hread, ?_⟩
  intro s t a hallowed halign h
  obtain ⟨-, -, -, rfl⟩ := memWrite_ok.1 h
  have hspells := spells_storeValue s a.toNat (0x1122334455667788 : BitVec 64)
  have hread : PlainAllowed (s.storeValue a.toNat (0x1122334455667788 : BitVec 64))
      s.memMap.readable a (64 / 8) := hallowed
  have h0 := memRead_part (d := 0) (w' := 8) rfl hread hspells (by decide) (by decide) (by omega)
  have h2 := memRead_part (d := 2) (w' := 16) rfl hread hspells (by decide) (by decide) (by omega)
  have h4 := memRead_part (d := 4) (w' := 32) rfl hread hspells (by decide) (by decide) (by omega)
  rw [BitVec.add_zero] at h0
  rw [State.storeValue_params] at h0 h2 h4
  cases he : s.params.hostEndian with
  | le =>
    rw [he] at h0 h2 h4
    exact ⟨h0, h2, h4⟩
  | be =>
    rw [he] at h0 h2 h4
    exact ⟨h0, h2, h4⟩

end Sys2Proof.Machine
end

section
/-! A word the decoder admits is the encoding of what it decodes to (30_encoding.md R96, R98, R100),
and the encoding decodes. `EncodedBy` says the first of the fields of one slot: each form of the decoder
is inverted once, and each class table is walked once beside the encoder's row for each instruction. -/

namespace Sys2Proof

/-! ### The opcode byte is its parts -/

theorem join_opcode (v : BitVec 8) :
    v.extractLsb' 4 4 ++ v.extractLsb' 3 1 ++ v.extractLsb' 0 3 = v := by
  ext i hi
  simp only [BitVec.getElem_append, BitVec.getElem_extractLsb']
  interval_cases i <;> simp

theorem join_memOpcode (v : BitVec 8) :
    v.extractLsb' 5 3 ++ v.extractLsb' 3 2 ++ v.extractLsb' 0 3 = v := by
  ext i hi
  simp only [BitVec.getElem_append, BitVec.getElem_extractLsb']
  interval_cases i <;> simp

theorem eq_ofNat_of_toNat_eq {w n : Nat} {v : BitVec w} (h : v.toNat = n) :
    v = BitVec.ofNat w n := by
  rw [← h, BitVec.ofNat_toNat, BitVec.setWidth_eq]

theorem bit_eq_one {s : BitVec 1} (h : s ≠ 0) : s = 1 := by
  revert s; decide

/-- The opcode byte of an arithmetic or jump class from its parts (30_encoding.md R89). -/
theorem Fields.opcode_eq_opcodeOf {f : Fields} {code cls : Nat} {s : BitVec 1}
    (hcode : f.code.toNat = code) (hs : f.s = s) (hcls : f.cls.toNat = cls) :
    f.opcode = opcodeOf (BitVec.ofNat 4 code) s (BitVec.ofNat 3 cls) := by
  rw [← eq_ofNat_of_toNat_eq hcode, ← eq_ofNat_of_toNat_eq hcls, ← hs]
  exact (join_opcode f.opcode).symm

/-- The opcode byte of a load or store class from its parts (30_encoding.md R91). -/
theorem Fields.opcode_eq_memOpcodeOf {f : Fields} {mode size cls : Nat}
    (hmode : f.mode.toNat = mode) (hsize : f.size.toNat = size) (hcls : f.cls.toNat = cls) :
    f.opcode = memOpcodeOf (BitVec.ofNat 3 mode) (BitVec.ofNat 2 size) (BitVec.ofNat 3 cls) := by
  rw [← eq_ofNat_of_toNat_eq hmode, ← eq_ofNat_of_toNat_eq hsize, ← eq_ofNat_of_toNat_eq hcls]
  exact (join_memOpcode f.opcode).symm

/-! ### What the encoder writes for an admitted word -/

/-- `f` holds the fields the encoder writes for `i`, but for the `src_reg` that 30_encoding.md R100
leaves free and the encoder writes as zero (log 17). -/
structure EncodedBy (f : Fields) (i : Instr) : Prop where
  fixed : i.ignoresSrcField = false → f = i.fields
  free : i.ignoresSrcField = true → { f with src := 0 } = i.fields

/-! ### Each form of the decoder, inverted -/

section Forms

variable {f : Fields} {i : Instr}

/-- From the row the encoder has for `i`, when `i` uses every field. -/
theorem EncodedBy.of_row {op : BitVec 8} {d s : BitVec 4} {off : BitVec 16} {imm : BitVec 32}
    (hused : i.ignoresSrcField = false) (hrow : i.fields = ⟨op, d, s, off, imm⟩)
    (hop : f.opcode = op) (hdst : f.dst = d) (hsrc : f.src = s) (hoff : f.off = off)
    (himm : f.imm = imm) : EncodedBy f i := by
  subst hop hdst hsrc hoff himm
  exact ⟨fun _ => hrow.symm, fun hfree => Bool.noConfusion (hused.symm.trans hfree)⟩

theorem eq_fieldOfReg {v : BitVec 4} {r : Reg} (h : regOfField v = some r) : v = fieldOfReg r :=
  (fieldOfReg_of_regOfField h).symm

theorem Fields.twoOperand_encodedBy {c : Reg → Src → Instr} {code cls off : Nat}
    (hcode : f.code.toNat = code) (hoff : f.off.toNat = off) (hcls : f.cls.toNat = cls)
    (hused : ∀ d x, (c d x).ignoresSrcField = false)
    (hrow : ∀ d x, (c d x).fields =
      Fields.ofTwoOperand (BitVec.ofNat 4 code) (BitVec.ofNat 3 cls) (BitVec.ofNat 16 off) d x)
    (h : f.twoOperand c = some i) : EncodedBy f i := by
  have hoff := eq_ofNat_of_toNat_eq hoff
  unfold Fields.twoOperand at h
  split at h
  case h_1 => cases h
  case h_2 d hd =>
    split at h
    case isTrue hs =>
      split at h
      case isTrue hsrc =>
        cases h
        exact .of_row (hused _ _) (hrow d (.imm f.imm)) (Fields.opcode_eq_opcodeOf hcode hs hcls)
          (eq_fieldOfReg hd) hsrc hoff rfl
      case isFalse => cases h
    case isFalse hs =>
      split at h
      case isTrue himm =>
        obtain ⟨r, hr, rfl⟩ := Option.map_eq_some_iff.1 h
        exact .of_row (hused _ _) (hrow d (.reg r))
          (Fields.opcode_eq_opcodeOf hcode (bit_eq_one hs) hcls)
          (eq_fieldOfReg hd) (eq_fieldOfReg hr) hoff himm
      case isFalse => cases h

theorem Fields.negation_encodedBy {c : Reg → Instr} {code cls off : Nat}
    (hcode : f.code.toNat = code) (hoff : f.off.toNat = off) (hcls : f.cls.toNat = cls)
    (hused : ∀ d, (c d).ignoresSrcField = false)
    (hrow : ∀ d, (c d).fields = ⟨opcodeOf (BitVec.ofNat 4 code) 0 (BitVec.ofNat 3 cls),
      fieldOfReg d, 0, BitVec.ofNat 16 off, 0⟩)
    (h : f.negation c = some i) : EncodedBy f i := by
  unfold Fields.negation at h
  split at h
  case isTrue hz =>
    obtain ⟨hs, hsrc, himm⟩ := hz
    obtain ⟨d, hd, rfl⟩ := Option.map_eq_some_iff.1 h
    exact .of_row (hused d) (hrow d) (Fields.opcode_eq_opcodeOf hcode hs hcls) (eq_fieldOfReg hd)
      hsrc (eq_ofNat_of_toNat_eq hoff) himm
  case isFalse => cases h

theorem Fields.registerMove_encodedBy {c : Reg → Reg → Instr} {code cls off : Nat}
    (hcode : f.code.toNat = code) (hoff : f.off.toNat = off) (hcls : f.cls.toNat = cls)
    (hused : ∀ d r, (c d r).ignoresSrcField = false)
    (hrow : ∀ d r, (c d r).fields = ⟨opcodeOf (BitVec.ofNat 4 code) 1 (BitVec.ofNat 3 cls),
      fieldOfReg d, fieldOfReg r, BitVec.ofNat 16 off, 0⟩)
    (h : f.registerMove c = some i) : EncodedBy f i := by
  unfold Fields.registerMove at h
  split at h
  case h_1 => cases h
  case h_2 d hd =>
    split at h
    case isTrue hz =>
      obtain ⟨hs, himm⟩ := hz
      obtain ⟨r, hr, rfl⟩ := Option.map_eq_some_iff.1 h
      exact .of_row (hused d r) (hrow d r) (Fields.opcode_eq_opcodeOf hcode hs hcls)
        (eq_fieldOfReg hd) (eq_fieldOfReg hr) (eq_ofNat_of_toNat_eq hoff) himm
    case isFalse => cases h

/-- A byte swap of the width `n`, which `imm` holds. -/
theorem EncodedBy.of_width {c : Reg → Instr} {op : BitVec 8} {n : Nat} (hop : f.opcode = op)
    (hsrc : f.src = 0) (hoff : f.off = 0) (himm : f.imm.toNat = n)
    (hrow : ∀ d, (c d).ignoresSrcField = false ∧
      (c d).fields = ⟨op, fieldOfReg d, 0, 0, BitVec.ofNat 32 n⟩)
    (h : (regOfField f.dst).map c = some i) : EncodedBy f i := by
  obtain ⟨d, hd, rfl⟩ := Option.map_eq_some_iff.1 h
  obtain ⟨hused, hfields⟩ := hrow d
  exact .of_row hused hfields hop (eq_fieldOfReg hd) hsrc hoff (eq_ofNat_of_toNat_eq himm)

/-- The swaps of one opcode byte are told apart by the width in `imm` (40_arithmetic.md R170). -/
theorem Fields.swapOf_encodedBy {c16 c32 c64 : Reg → Instr} {op : BitVec 8} (hop : f.opcode = op)
    (hoff : f.off = 0)
    (h16 : ∀ d, (c16 d).ignoresSrcField = false ∧ (c16 d).fields = ⟨op, fieldOfReg d, 0, 0, 16⟩)
    (h32 : ∀ d, (c32 d).ignoresSrcField = false ∧ (c32 d).fields = ⟨op, fieldOfReg d, 0, 0, 32⟩)
    (h64 : ∀ d, (c64 d).ignoresSrcField = false ∧ (c64 d).fields = ⟨op, fieldOfReg d, 0, 0, 64⟩)
    (h : f.swapOf c16 c32 c64 = some i) : EncodedBy f i := by
  unfold Fields.swapOf at h
  split at h
  case isTrue hsrc =>
    split at h
    case h_1 himm => exact .of_width hop hsrc hoff himm h16 h
    case h_2 himm => exact .of_width hop hsrc hoff himm h32 h
    case h_3 himm => exact .of_width hop hsrc hoff himm h64 h
    case h_4 => cases h
  case isFalse => cases h

theorem Fields.swap32_encodedBy (hcode : f.code.toNat = 0xd) (hoff : f.off.toNat = 0)
    (hcls : f.cls.toNat = 4) (h : f.swap32 = some i) : EncodedBy f i := by
  have hoff := eq_ofNat_of_toNat_eq hoff
  unfold Fields.swap32 at h
  split at h
  case isTrue hs =>
    exact Fields.swapOf_encodedBy (Fields.opcode_eq_opcodeOf hcode hs hcls) hoff
      (fun _ => ⟨rfl, rfl⟩) (fun _ => ⟨rfl, rfl⟩) (fun _ => ⟨rfl, rfl⟩) h
  case isFalse hs =>
    exact Fields.swapOf_encodedBy (Fields.opcode_eq_opcodeOf hcode (bit_eq_one hs) hcls) hoff
      (fun _ => ⟨rfl, rfl⟩) (fun _ => ⟨rfl, rfl⟩) (fun _ => ⟨rfl, rfl⟩) h

theorem Fields.swap64_encodedBy (hcode : f.code.toNat = 0xd) (hoff : f.off.toNat = 0)
    (hcls : f.cls.toNat = 7) (h : f.swap64 = some i) : EncodedBy f i := by
  unfold Fields.swap64 at h
  split at h
  case isTrue hs =>
    exact Fields.swapOf_encodedBy (Fields.opcode_eq_opcodeOf hcode hs hcls)
      (eq_ofNat_of_toNat_eq hoff) (fun _ => ⟨rfl, rfl⟩) (fun _ => ⟨rfl, rfl⟩)
      (fun _ => ⟨rfl, rfl⟩) h
  case isFalse => cases h

/-- The row of a conditional jump: the fields the encoder writes for it, and which operand leaves
`src_reg` free. -/
structure ConditionalRow (c : Reg → Src → BitVec 16 → Instr) (code cls : Nat) : Prop where
  fields : ∀ d x off, (c d x off).fields =
    Fields.ofConditional (BitVec.ofNat 4 code) (BitVec.ofNat 3 cls) d x off
  imm_free : ∀ d v off, (c d (.imm v) off).ignoresSrcField = true
  reg_used : ∀ d r off, (c d (.reg r) off).ignoresSrcField = false

theorem ConditionalRow.encodedBy {c : Reg → Src → BitVec 16 → Instr} {code cls : Nat}
    (row : ConditionalRow c code cls) (hcode : f.code.toNat = code) (hcls : f.cls.toNat = cls)
    (h : f.conditional c = some i) : EncodedBy f i := by
  unfold Fields.conditional at h
  split at h
  case h_1 => cases h
  case h_2 d hd =>
    split at h
    case isTrue hs =>
      cases h
      have hfree := row.imm_free d f.imm f.off
      refine ⟨fun hused => Bool.noConfusion (hused.symm.trans hfree), fun _ => ?_⟩
      rw [row.fields, Fields.opcode_eq_opcodeOf hcode hs hcls, eq_fieldOfReg hd]
      rfl
    case isFalse hs =>
      split at h
      case isTrue himm =>
        obtain ⟨r, hr, rfl⟩ := Option.map_eq_some_iff.1 h
        exact .of_row (row.reg_used _ _ _) (row.fields d (.reg r) f.off)
          (Fields.opcode_eq_opcodeOf hcode (bit_eq_one hs) hcls) (eq_fieldOfReg hd)
          (eq_fieldOfReg hr) rfl himm
      case isFalse => cases h

theorem Fields.call_encodedBy (hcode : f.code.toNat = 8) (hcls : f.cls.toNat = 5)
    (h : f.call = some i) : EncodedBy f i := by
  unfold Fields.call at h
  split at h
  case isTrue hz =>
    obtain ⟨hs, hdst, hoff⟩ := hz
    have hop := Fields.opcode_eq_opcodeOf hcode hs hcls
    split at h
    case h_4 => cases h
    all_goals
      rename_i hsrc
      cases h
      exact .of_row rfl rfl hop hdst (eq_ofNat_of_toNat_eq hsrc) hoff rfl
  case isFalse => cases h

theorem Fields.load_encodedBy {c : Reg → Reg → BitVec 16 → Instr} {op : BitVec 8}
    (hop : f.opcode = op) (hused : ∀ d b off, (c d b off).ignoresSrcField = false)
    (hrow : ∀ d b off, (c d b off).fields = ⟨op, fieldOfReg d, fieldOfReg b, off, 0⟩)
    (h : f.load c = some i) : EncodedBy f i := by
  unfold Fields.load at h
  split at h
  case h_1 => cases h
  case h_2 d hd =>
    split at h
    case isTrue himm =>
      obtain ⟨b, hb, rfl⟩ := Option.map_eq_some_iff.1 h
      exact .of_row (hused _ _ _) (hrow d b f.off) hop (eq_fieldOfReg hd) (eq_fieldOfReg hb) rfl himm
    case isFalse => cases h

theorem Fields.storeImm_encodedBy {c : Reg → BitVec 16 → BitVec 32 → Instr} {op : BitVec 8}
    (hop : f.opcode = op) (hused : ∀ b off v, (c b off v).ignoresSrcField = false)
    (hrow : ∀ b off v, (c b off v).fields = ⟨op, fieldOfReg b, 0, off, v⟩)
    (h : f.storeImm c = some i) : EncodedBy f i := by
  unfold Fields.storeImm at h
  split at h
  case isTrue hsrc =>
    obtain ⟨b, hb, rfl⟩ := Option.map_eq_some_iff.1 h
    exact .of_row (hused _ _ _) (hrow b f.off f.imm) hop (eq_fieldOfReg hb) hsrc rfl rfl
  case isFalse => cases h

theorem Fields.storeReg_encodedBy {c : Reg → BitVec 16 → Reg → Instr} {op : BitVec 8}
    (hop : f.opcode = op) (hused : ∀ b off r, (c b off r).ignoresSrcField = false)
    (hrow : ∀ b off r, (c b off r).fields = ⟨op, fieldOfReg b, fieldOfReg r, off, 0⟩)
    (h : f.storeReg c = some i) : EncodedBy f i := by
  unfold Fields.storeReg at h
  split at h
  case h_1 => cases h
  case h_2 b hb =>
    split at h
    case isTrue himm =>
      obtain ⟨r, hr, rfl⟩ := Option.map_eq_some_iff.1 h
      exact .of_row (hused _ _ _) (hrow b f.off r) hop (eq_fieldOfReg hb) (eq_fieldOfReg hr) rfl himm
    case isFalse => cases h

theorem Fields.atomic_encodedBy {c : Reg → BitVec 16 → Reg → Instr} {op : BitVec 8} {n : Nat}
    (hop : f.opcode = op) (himm : f.imm.toNat = n)
    (hused : ∀ b off r, (c b off r).ignoresSrcField = false)
    (hrow : ∀ b off r, (c b off r).fields =
      ⟨op, fieldOfReg b, fieldOfReg r, off, BitVec.ofNat 32 n⟩)
    (h : f.atomic c = some i) : EncodedBy f i := by
  unfold Fields.atomic at h
  split at h
  case h_1 => cases h
  case h_2 b hb =>
    obtain ⟨r, hr, rfl⟩ := Option.map_eq_some_iff.1 h
    exact .of_row (hused _ _ _) (hrow b f.off r) hop (eq_fieldOfReg hb) (eq_fieldOfReg hr) rfl
      (eq_ofNat_of_toNat_eq himm)

end Forms

/-! ### Each class table, beside the rows of the encoder -/

section Classes

variable {f : Fields} {i : Instr}

theorem decodeAlu64_encodedBy (hcls : f.cls.toNat = 7) (h : decodeAlu64 f = some i) :
    EncodedBy f i := by
  unfold decodeAlu64 at h
  split at h
  case h_10 hcode hoff =>
    exact Fields.negation_encodedBy hcode hoff hcls (fun _ => rfl) (fun _ => rfl) h
  case h_15 hcode hoff | h_16 hcode hoff | h_17 hcode hoff =>
    exact Fields.registerMove_encodedBy hcode hoff hcls (fun _ _ => rfl) (fun _ _ => rfl) h
  case h_19 hcode hoff => exact Fields.swap64_encodedBy hcode hoff hcls h
  case h_20 => cases h
  all_goals
    rename_i hcode hoff
    exact Fields.twoOperand_encodedBy hcode hoff hcls (fun _ _ => rfl) (fun _ _ => rfl) h

theorem decodeAlu32_encodedBy (hcls : f.cls.toNat = 4) (h : decodeAlu32 f = some i) :
    EncodedBy f i := by
  unfold decodeAlu32 at h
  split at h
  case h_10 hcode hoff =>
    exact Fields.negation_encodedBy hcode hoff hcls (fun _ => rfl) (fun _ => rfl) h
  case h_15 hcode hoff | h_16 hcode hoff =>
    exact Fields.registerMove_encodedBy hcode hoff hcls (fun _ _ => rfl) (fun _ _ => rfl) h
  case h_18 hcode hoff => exact Fields.swap32_encodedBy hcode hoff hcls h
  case h_19 => cases h
  all_goals
    rename_i hcode hoff
    exact Fields.twoOperand_encodedBy hcode hoff hcls (fun _ _ => rfl) (fun _ _ => rfl) h

theorem decodeJmp_encodedBy (hcls : f.cls.toNat = 5) (h : decodeJmp f = some i) :
    EncodedBy f i := by
  unfold decodeJmp at h
  split at h
  case h_1 hcode =>
    split at h
    case isTrue hz =>
      obtain ⟨hs, hdst, hsrc, himm⟩ := hz
      cases h
      exact .of_row rfl rfl (Fields.opcode_eq_opcodeOf hcode hs hcls) hdst hsrc rfl himm
    case isFalse => cases h
  case h_13 hcode => exact Fields.call_encodedBy hcode hcls h
  case h_14 hcode =>
    split at h
    case isTrue hz =>
      obtain ⟨hs, hdst, hsrc, hoff, himm⟩ := hz
      cases h
      exact .of_row rfl rfl (Fields.opcode_eq_opcodeOf hcode hs hcls) hdst hsrc hoff himm
    case isFalse => cases h
  case h_15 => cases h
  all_goals
    rename_i hcode
    exact ConditionalRow.encodedBy ⟨fun _ _ _ => rfl, fun _ _ _ => rfl, fun _ _ _ => rfl⟩
      hcode hcls h

theorem decodeJmp32_encodedBy (hcls : f.cls.toNat = 6) (h : decodeJmp32 f = some i) :
    EncodedBy f i := by
  unfold decodeJmp32 at h
  split at h
  case h_1 hcode =>
    split at h
    case isTrue hz =>
      obtain ⟨hs, hdst, hsrc, hoff⟩ := hz
      cases h
      exact .of_row rfl rfl (Fields.opcode_eq_opcodeOf hcode hs hcls) hdst hsrc hoff rfl
    case isFalse => cases h
  case h_13 => cases h
  all_goals
    rename_i hcode
    exact ConditionalRow.encodedBy ⟨fun _ _ _ => rfl, fun _ _ _ => rfl, fun _ _ _ => rfl⟩
      hcode hcls h

theorem decodeLdx_encodedBy (hcls : f.cls.toNat = 1) (h : decodeLdx f = some i) :
    EncodedBy f i := by
  unfold decodeLdx at h
  split at h
  case h_8 => cases h
  all_goals
    rename_i hmode hsize
    exact Fields.load_encodedBy (Fields.opcode_eq_memOpcodeOf hmode hsize hcls)
      (fun _ _ _ => rfl) (fun _ _ _ => rfl) h

theorem decodeSt_encodedBy (hcls : f.cls.toNat = 2) (h : decodeSt f = some i) :
    EncodedBy f i := by
  unfold decodeSt at h
  split at h
  case h_5 => cases h
  all_goals
    rename_i hmode hsize
    exact Fields.storeImm_encodedBy (Fields.opcode_eq_memOpcodeOf hmode hsize hcls)
      (fun _ _ _ => rfl) (fun _ _ _ => rfl) h

theorem decodeAtomic32_encodedBy (hop : f.opcode = memOpcodeOf modeAtomic sizeW clsStx)
    (h : decodeAtomic32 f = some i) : EncodedBy f i := by
  unfold decodeAtomic32 at h
  split at h
  case h_11 => cases h
  all_goals
    rename_i himm
    exact Fields.atomic_encodedBy hop himm (fun _ _ _ => rfl) (fun _ _ _ => rfl) h

theorem decodeAtomic64_encodedBy (hop : f.opcode = memOpcodeOf modeAtomic sizeDw clsStx)
    (h : decodeAtomic64 f = some i) : EncodedBy f i := by
  unfold decodeAtomic64 at h
  split at h
  case h_11 => cases h
  all_goals
    rename_i himm
    exact Fields.atomic_encodedBy hop himm (fun _ _ _ => rfl) (fun _ _ _ => rfl) h

theorem decodeStx_encodedBy (hcls : f.cls.toNat = 3) (h : decodeStx f = some i) :
    EncodedBy f i := by
  unfold decodeStx at h
  split at h
  case h_5 hmode hsize =>
    exact decodeAtomic32_encodedBy (Fields.opcode_eq_memOpcodeOf hmode hsize hcls) h
  case h_6 hmode hsize =>
    exact decodeAtomic64_encodedBy (Fields.opcode_eq_memOpcodeOf hmode hsize hcls) h
  case h_7 => cases h
  all_goals
    rename_i hmode hsize
    exact Fields.storeReg_encodedBy (Fields.opcode_eq_memOpcodeOf hmode hsize hcls)
      (fun _ _ _ => rfl) (fun _ _ _ => rfl) h

theorem decodeBasic_encodedBy (h : decodeBasic f = some i) : EncodedBy f i := by
  unfold decodeBasic at h
  split at h
  case h_1 hcls => exact decodeLdx_encodedBy hcls h
  case h_2 hcls => exact decodeSt_encodedBy hcls h
  case h_3 hcls => exact decodeStx_encodedBy hcls h
  case h_4 hcls => exact decodeAlu32_encodedBy hcls h
  case h_5 hcls => exact decodeJmp_encodedBy hcls h
  case h_6 hcls => exact decodeJmp32_encodedBy hcls h
  case h_7 hcls => exact decodeAlu64_encodedBy hcls h
  case h_8 => cases h

/-- A wide instruction fixes every field of its first slot, and `next_imm` of its second. -/
theorem decodeWide_encodes {next : BitVec 32} (hop : f.opcode = wideOpcode)
    (h : decodeWide f next = some i) : EncodedBy f i ∧ next = i.nextImm := by
  unfold decodeWide at h
  split at h
  case isFalse => cases h
  case isTrue hoff =>
    split at h
    case h_1 => cases h
    case h_2 d hd =>
      split at h
      case h_8 => cases h
      case h_1 hsrc | h_3 hsrc | h_7 hsrc =>
        cases h
        exact ⟨.of_row rfl rfl hop (eq_fieldOfReg hd) (eq_ofNat_of_toNat_eq hsrc) hoff rfl, rfl⟩
      all_goals
        rename_i hsrc
        split at h
        case isTrue hnext =>
          cases h
          exact ⟨.of_row rfl rfl hop (eq_fieldOfReg hd) (eq_ofNat_of_toNat_eq hsrc) hoff rfl, hnext⟩
        case isFalse => cases h

end Classes

/-! ### The whole decoder -/

section Decoder

variable {e : Endian} {groups : List Group} {a : Slot} {b : Option Slot} {i : Instr}

/-- What the decoder reads from slot `a` and the slot `b` after it, before steps 6 to 8 of
30_encoding.md R96. -/
inductive ReadFrom (e : Endian) (a : Slot) (b : Option Slot) (i : Instr) : Prop where
  | wide (s : Slot) (ha : a.b0 = wideOpcode) (hb : b = some s) (hzero : s.reservedZero = true)
      (hi : decodeWide (a.fields e) (s.fields e).imm = some i)
  | basic (ha : a.b0 ≠ wideOpcode) (hlegacy : (a.fields e).legacy = false)
      (hi : decodeBasic (a.fields e) = some i)

theorem decode_eq_ok_iff : decode e groups a b = .ok i ↔
    ReadFrom e a b i ∧ i.wellFormed = true ∧ i.implemented groups = true := by
  constructor
  · intro h
    by_cases ha : a.b0 = 0x18
    · cases b with
      | none => rw [decode_of_wide_none ha] at h; cases h
      | some s =>
        rw [decode_of_wide ha] at h
        split at h
        case isTrue hzero =>
          obtain ⟨hi, hok⟩ := accept_ok.1 h
          exact ⟨.wide s ha rfl hzero hi, hok⟩
        case isFalse => cases h
    · rw [decode_of_basic ha] at h
      split at h
      case isTrue => cases h
      case isFalse hlegacy =>
        obtain ⟨hi, hok⟩ := accept_ok.1 h
        exact ⟨.basic ha (Bool.eq_false_of_not_eq_true hlegacy) hi, hok⟩
  · rintro ⟨hread, hok⟩
    cases hread with
    | wide s ha hb hzero hi =>
      rw [hb, decode_of_wide ha, if_pos hzero]
      exact accept_ok.2 ⟨hi, hok⟩
    | basic ha hlegacy hi =>
      rw [decode_of_basic ha, hlegacy, if_neg Bool.false_ne_true]
      exact accept_ok.2 ⟨hi, hok⟩

/-- The second slot of a wide instruction (30_encoding.md R82). -/
def secondFields (next : BitVec 32) : Fields := ⟨0, 0, 0, 0, next⟩

theorem encode_of_wide (hw : i.wide = true) :
    encode e i = [i.fields.toSlot e, (secondFields i.nextImm).toSlot e] := by
  simp [encode, hw, secondFields]

theorem encode_of_basic (hw : i.wide = false) : encode e i = [i.fields.toSlot e] := by
  simp [encode, hw]

theorem Instr.slots_of_wide (hw : i.wide = true) : i.slots = 2 := by
  simp [Instr.slots, hw]

theorem Instr.slots_of_basic (hw : i.wide = false) : i.slots = 1 := by
  simp [Instr.slots, hw]

theorem reservedZero_toSlot (next : BitVec 32) :
    ((secondFields next).toSlot e).reservedZero = true := by
  rw [Slot.reservedZero_iff e, Slot.fields_toSlot]
  rfl

/-- The slots of a wide instruction are read back as it. -/
theorem readFrom_encode_of_wide (hw : i.wide = true) :
    ReadFrom e (i.fields.toSlot e) (some ((secondFields i.nextImm).toSlot e)) i := by
  obtain ⟨hop, hi⟩ := decodeWide_fields hw
  refine .wide _ ((Fields.toSlot_b0 e _).trans hop) rfl (reservedZero_toSlot _) ?_
  rw [Slot.fields_toSlot, Slot.fields_toSlot]
  exact hi

/-- The slot of a basic instruction is read back as it, whatever follows. -/
theorem readFrom_encode_of_basic (hw : i.wide = false) : ReadFrom e (i.fields.toSlot e) b i := by
  obtain ⟨hop, hlegacy, hi⟩ := decodeBasic_fields hw
  refine .basic (by rwa [Fields.toSlot_b0]) ?_ ?_
  · rwa [Slot.fields_toSlot]
  · rwa [Slot.fields_toSlot]

theorem Instr.family_of_ignoresSrcField (h : i.ignoresSrcField = true) : i.family = .jump := by
  cases i <;> first | rfl | cases h

theorem Instr.wide_of_family_jump (h : i.family = .jump) : i.wide = false := by
  rw [Instr.wide_eq_decide_imm64, h]
  rfl

theorem Instr.ignoresSrcField_of_wide (hw : i.wide = true) : i.ignoresSrcField = false := by
  by_contra hfree
  have hjump := Instr.family_of_ignoresSrcField (Bool.eq_true_of_not_eq_false hfree)
  rw [Instr.wide_of_family_jump hjump] at hw
  cases hw

theorem ReadFrom.encodedBy (h : ReadFrom e a b i) : EncodedBy (a.fields e) i := by
  cases h with
  | wide s ha hb hzero hi => exact (decodeWide_encodes ((Slot.fields_opcode e a).trans ha) hi).1
  | basic ha hlegacy hi => exact decodeBasic_encodedBy hi

/-- The slots an instruction that uses every field is read from are its encoding. -/
theorem ReadFrom.take_slots (h : ReadFrom e a b i) (hused : i.ignoresSrcField = false) :
    (a :: b.toList).take i.slots = encode e i := by
  have ha : i.fields.toSlot e = a := by rw [← h.encodedBy.fixed hused, Fields.toSlot_fields]
  cases h with
  | wide s hop hb hzero hi =>
    obtain ⟨hwide, -, -⟩ := decodeWide_reading hi
    obtain ⟨-, hnext⟩ := decodeWide_encodes ((Slot.fields_opcode e a).trans hop) hi
    have hs : (secondFields i.nextImm).toSlot e = s := by
      rw [← hnext, secondFields, ← (Slot.reservedZero_iff e s).1 hzero, Fields.toSlot_fields]
    rw [encode_of_wide hwide, Instr.slots_of_wide hwide, ha, hs, hb]
    rfl
  | basic hop hlegacy hi =>
    obtain ⟨-, -, hwide⟩ := decodeBasic_reading hi
    rw [encode_of_basic hwide, Instr.slots_of_basic hwide, ha]
    rfl

/-- A word of a conditional jump with an immediate is its encoding once `src_reg` is zero. -/
theorem ReadFrom.encode_of_ignoresSrcField (h : ReadFrom e a b i)
    (hfree : i.ignoresSrcField = true) :
    [Fields.toSlot e { a.fields e with src := 0 }] = encode e i := by
  have hwide := Instr.wide_of_family_jump (Instr.family_of_ignoresSrcField hfree)
  rw [encode_of_basic hwide, h.encodedBy.free hfree]

end Decoder

/-! ### The conditional jumps (30_encoding.md R100; 41_jump.md R182) -/

/-- A conditional jump of class JMP or JMP32, with the row the decoder reads it by. -/
structure ConditionalJump (c : Reg → Src → BitVec 16 → Instr) (code cls : Nat) : Prop
    extends ConditionalRow c code cls where
  code_ne : BitVec.ofNat 4 code ≠ 0
  reads : ∀ f : Fields, f.code = BitVec.ofNat 4 code → f.cls = BitVec.ofNat 3 cls →
    decodeBasic f = f.conditional c

/-- The instructions of the family of jumps. -/
inductive JumpView : Instr → Prop where
  | ja (off : BitVec 16) : JumpView (.ja off)
  | ja32 (imm : BitVec 32) : JumpView (.ja32 imm)
  | conditional {c : Reg → Src → BitVec 16 → Instr} {code cls : Nat}
      (jump : ConditionalJump c code cls) (d : Reg) (x : Src) (off : BitVec 16) :
      JumpView (c d x off)

theorem Instr.jumpView {i : Instr} (h : i.family = .jump) : JumpView i := by
  cases i
  case ja off => exact .ja off
  case ja32 imm => exact .ja32 imm
  case jeq64 d x off | jeq32 d x off | jgt64 d x off | jgt32 d x off | jge64 d x off | jge32 d x off |
      jset64 d x off | jset32 d x off | jne64 d x off | jne32 d x off | jsgt64 d x off |
      jsgt32 d x off | jsge64 d x off | jsge32 d x off | jlt64 d x off | jlt32 d x off |
      jle64 d x off | jle32 d x off | jslt64 d x off | jslt32 d x off | jsle64 d x off |
      jsle32 d x off =>
    exact .conditional ⟨⟨fun _ _ _ => rfl, fun _ _ _ => rfl, fun _ _ _ => rfl⟩, by decide,
      fun f hcode hcls => by simp [decodeBasic, decodeJmp, decodeJmp32, hcode, hcls]⟩ d x off
  all_goals cases h

theorem opcodeOf_code (code : BitVec 4) (s : BitVec 1) (cls : BitVec 3) :
    (opcodeOf code s cls).extractLsb' 4 4 = code := by
  rw [opcodeOf, extractLsb'_append_above (n := 3) 1, extractLsb'_append_high]

theorem opcodeOf_cls (code : BitVec 4) (s : BitVec 1) (cls : BitVec 3) :
    (opcodeOf code s cls).extractLsb' 0 3 = cls := by
  rw [opcodeOf, extractLsb'_append_low]

theorem Fields.ofConditional_code (code : BitVec 4) (cls : BitVec 3) (d : Reg) (x : Src)
    (off : BitVec 16) : (Fields.ofConditional code cls d x off).code = code := by
  cases x <;> exact opcodeOf_code _ _ _

theorem Fields.ofConditional_s_eq_zero (code : BitVec 4) (cls : BitVec 3) (d : Reg) (x : Src)
    (off : BitVec 16) :
    (Fields.ofConditional code cls d x off).s = 0 ↔ ∃ v, x = .imm v := by
  cases x with
  | imm v => exact iff_of_true (opcodeOf_s _ _ _) ⟨v, rfl⟩
  | reg r =>
    have hs : (Fields.ofConditional code cls d (.reg r) off).s = 1 := opcodeOf_s _ _ _
    rw [hs]
    simp

theorem ConditionalJump.ignoresSrcField_iff {c : Reg → Src → BitVec 16 → Instr} {code cls : Nat}
    (jump : ConditionalJump c code cls) (d : Reg) (x : Src) (off : BitVec 16) :
    (c d x off).ignoresSrcField = true ↔ ∃ v, x = .imm v := by
  cases x with
  | imm v => simp [jump.imm_free]
  | reg r => simp [jump.reg_used]

theorem Instr.ignoresSrcField_iff (i : Instr) : i.ignoresSrcField = true ↔
    (i.family = .jump ∧ i.fields.s = 0 ∧ i.fields.code ≠ 0) := by
  refine (and_iff_right_of_imp Instr.family_of_ignoresSrcField).symm.trans
    (and_congr_right fun hjump => ?_)
  cases Instr.jumpView hjump with
  | ja off => exact iff_of_false Bool.false_ne_true fun ⟨_, hcode⟩ => hcode (opcodeOf_code _ _ _)
  | ja32 imm => exact iff_of_false Bool.false_ne_true fun ⟨_, hcode⟩ => hcode (opcodeOf_code _ _ _)
  | conditional jump d x off =>
    rw [jump.ignoresSrcField_iff, jump.fields, Fields.ofConditional_s_eq_zero,
      Fields.ofConditional_code, and_iff_left jump.code_ne]

/-- With K, the decoder of conditional jumps does not look at `src_reg`. -/
theorem Fields.conditional_imm {op : BitVec 8} (hs : op.extractLsb' 3 1 = 0)
    (c : Reg → Src → BitVec 16 → Instr) (d : Reg) (n : BitVec 4) (off : BitVec 16)
    (v : BitVec 32) :
    Fields.conditional ⟨op, fieldOfReg d, n, off, v⟩ c = some (c d (.imm v) off) := by
  simp [Fields.conditional, Fields.s, hs]

theorem decodeBasic_of_ignoresSrcField {i : Instr} (h : i.ignoresSrcField = true) (n : BitVec 4) :
    decodeBasic { i.fields with src := n } = some i := by
  cases Instr.jumpView (Instr.family_of_ignoresSrcField h) with
  | ja off => cases h
  | ja32 imm => cases h
  | conditional jump d x off =>
    obtain ⟨v, rfl⟩ := (jump.ignoresSrcField_iff d x off).1 h
    rw [jump.fields]
    refine (jump.reads _ ?_ ?_).trans (Fields.conditional_imm (opcodeOf_s _ _ _) _ d n off v)
    · exact opcodeOf_code _ _ _
    · exact opcodeOf_cls _ _ _

theorem Instr.implemented_of_family_jump {i : Instr} (h : i.family = .jump)
    (groups : List Group) : i.implemented groups = true := by
  cases i <;> first | rfl | cases h

theorem Instr.wellFormed_of_family_jump {i : Instr} (h : i.family = .jump) :
    i.wellFormed = true := by
  rw [Instr.wellFormed, Instr.writes_eq_none i (.inl h)]
  rfl

theorem decode_of_ignoresSrcField {i : Instr} (h : i.ignoresSrcField = true) (e : Endian)
    (groups : List Group) (n : BitVec 4) (b : Option Slot) :
    decode e groups (Fields.toSlot e { i.fields with src := n }) b = .ok i := by
  have hjump := Instr.family_of_ignoresSrcField h
  obtain ⟨hop, hlegacy, -⟩ := decodeBasic_fields (Instr.wide_of_family_jump hjump)
  refine decode_eq_ok_iff.2 ⟨.basic ?_ ?_ ?_, Instr.wellFormed_of_family_jump hjump,
    Instr.implemented_of_family_jump hjump groups⟩
  · rwa [Fields.toSlot_b0]
  · rwa [Slot.fields_toSlot]
  · rw [Slot.fields_toSlot]
    exact decodeBasic_of_ignoresSrcField h n

/-! ### The opcode bytes of the tables (30_encoding.md R97) -/

theorem Fields.ofTwoOperand_opcode_mem {code : BitVec 4} {cls : BitVec 3} {off : BitVec 16}
    {d : Reg} {x : Src} (himm : definedOpcodes.elem (opcodeOf code 0 cls) = true)
    (hreg : definedOpcodes.elem (opcodeOf code 1 cls) = true) :
    (Fields.ofTwoOperand code cls off d x).opcode ∈ definedOpcodes := by
  cases x with
  | imm v => exact List.mem_of_elem_eq_true himm
  | reg r => exact List.mem_of_elem_eq_true hreg

theorem Fields.ofConditional_opcode_mem {code : BitVec 4} {cls : BitVec 3} {off : BitVec 16}
    {d : Reg} {x : Src} (himm : definedOpcodes.elem (opcodeOf code 0 cls) = true)
    (hreg : definedOpcodes.elem (opcodeOf code 1 cls) = true) :
    (Fields.ofConditional code cls d x off).opcode ∈ definedOpcodes := by
  cases x with
  | imm v => exact List.mem_of_elem_eq_true himm
  | reg r => exact List.mem_of_elem_eq_true hreg

/-- The opcode byte of an instruction depends on its operands only in the source bit. -/
theorem Instr.fields_opcode_mem (i : Instr) : i.fields.opcode ∈ definedOpcodes := by
  cases i
  case add64 | add32 | sub64 | sub32 | mul64 | mul32 | div64 | div32 | sdiv64 | sdiv32 | or64 |
      or32 | and64 | and32 | lsh64 | lsh32 | rsh64 | rsh32 | mod64 | mod32 | smod64 | smod32 |
      xor64 | xor32 | mov64 | mov32 | arsh64 | arsh32 =>
    exact Fields.ofTwoOperand_opcode_mem rfl rfl
  case jeq64 | jeq32 | jgt64 | jgt32 | jge64 | jge32 | jset64 | jset32 | jne64 | jne32 | jsgt64 |
      jsgt32 | jsge64 | jsge32 | jlt64 | jlt32 | jle64 | jle32 | jslt64 | jslt32 | jsle64 |
      jsle32 =>
    exact Fields.ofConditional_opcode_mem rfl rfl
  all_goals exact List.mem_of_elem_eq_true rfl

theorem EncodedBy.opcode {f : Fields} {i : Instr} (h : EncodedBy f i) :
    f.opcode = i.fields.opcode := by
  cases hi : i.ignoresSrcField with
  | false => rw [h.fixed hi]
  | true => rw [← h.free hi]

/-- The decoder refuses an opcode byte that is none of the tables. -/
theorem decode_of_undefined {a : Slot} (ha : a.b0 ∉ definedOpcodes) (hlegacy : ¬LegacyOpcode a.b0)
    (e : Endian) (groups : List Group) (b : Option Slot) :
    decode e groups a b = .error .illegalEncoding := by
  cases h : decode e groups a b with
  | error err => rw [decode_error hlegacy h]
  | ok i =>
    obtain ⟨hread, -⟩ := decode_eq_ok_iff.1 h
    rw [← Slot.fields_opcode e a, hread.encodedBy.opcode] at ha
    exact absurd i.fields_opcode_mem ha

/-- An arithmetic instruction with an immediate and with a register. -/
def arithmeticKX (c : Reg → Src → Instr) : List Instr := [c 0 (.imm 0), c 0 (.reg 0)]

/-- A conditional jump with an immediate and with a register. -/
def jumpKX (c : Reg → Src → BitVec 16 → Instr) : List Instr := [c 0 (.imm 0) 0, c 0 (.reg 0) 0]

/-- One instruction for each opcode byte of the tables, in the order of `definedOpcodes`. -/
def opcodeSamples : List Instr := List.flatten [
  -- ALU
  [.add32, .sub32, .mul32, .div32, .or32, .and32, .lsh32, .rsh32].flatMap arithmeticKX,
  [.neg32 0], [.mod32, .xor32, .mov32, .arsh32].flatMap arithmeticKX, [.le16 0, .be16 0],
  -- ALU64
  [.add64, .sub64, .mul64, .div64, .or64, .and64, .lsh64, .rsh64].flatMap arithmeticKX,
  [.neg64 0], [.mod64, .xor64, .mov64, .arsh64].flatMap arithmeticKX, [.bswap16 0],
  -- JMP
  [.ja 0], [.jeq64, .jgt64, .jge64, .jset64, .jne64, .jsgt64, .jsge64].flatMap jumpKX,
  [.callHelper 0, .exit], [.jlt64, .jle64, .jslt64, .jsle64].flatMap jumpKX,
  -- JMP32
  [.ja32 0], [.jeq32, .jgt32, .jge32, .jset32, .jne32, .jsgt32, .jsge32].flatMap jumpKX,
  [.jlt32, .jle32, .jslt32, .jsle32].flatMap jumpKX,
  -- LD, LDX, ST, STX
  [.lddw 0 0 0, .ldxw 0 0 0, .ldxh 0 0 0, .ldxb 0 0 0, .ldxdw 0 0 0, .ldxsw 0 0 0, .ldxsh 0 0 0,
    .ldxsb 0 0 0, .stw 0 0 0, .sth 0 0 0, .stb 0 0 0, .stdw 0 0 0, .stxw 0 0 0, .stxh 0 0 0,
    .stxb 0 0 0, .stxdw 0 0 0, .atomicAdd32 0 0 0, .atomicAdd64 0 0 0]]

theorem opcodeSamples_opcodes : opcodeSamples.map (fun i => i.fields.opcode) = definedOpcodes := by
  decide

theorem opcodeSamples_wellFormed : ∀ i ∈ opcodeSamples, i.wellFormed = true := by decide

theorem not_legacy_of_mem_definedOpcodes : ∀ op ∈ definedOpcodes, ¬LegacyOpcode op := by
  unfold LegacyOpcode
  decide

theorem exists_instr_of_mem_definedOpcodes {op : BitVec 8} (h : op ∈ definedOpcodes) :
    ∃ i : Instr, i.wellFormed = true ∧ i.fields.opcode = op := by
  rw [← opcodeSamples_opcodes] at h
  obtain ⟨i, hi, hop⟩ := List.mem_map.1 h
  exact ⟨i, opcodeSamples_wellFormed i hi, hop⟩

end Sys2Proof

namespace Sys2Proof.Machine

/-! ### The statements about words -/

/-- Settles O1: the slots `encode` writes are read back as the instruction, wide or basic. -/
theorem decodeOfEncode : Obligations.DecodeOfEncode := by
  intro e groups i rest hwf himpl
  cases hw : i.wide with
  | true =>
    rw [encode_of_wide hw, Instr.slots_of_wide hw]
    exact ⟨rfl, _, _, rfl, decode_eq_ok_iff.2 ⟨readFrom_encode_of_wide hw, hwf, himpl⟩⟩
  | false =>
    rw [encode_of_basic hw, Instr.slots_of_basic hw]
    exact ⟨rfl, _, _, rfl, decode_eq_ok_iff.2 ⟨readFrom_encode_of_basic hw, hwf, himpl⟩⟩

/-- Settles O2: what is read from a word is encoded by it (`ReadFrom.encodedBy`). -/
theorem decodedWordIsEncoding : Obligations.DecodedWordIsEncoding := by
  intro e groups a b i h
  obtain ⟨hread, hwf, himpl⟩ := decode_eq_ok_iff.1 h
  exact ⟨hwf, himpl, hread.take_slots, hread.encode_of_ignoresSrcField⟩

/-- Settles O3: the jumps are `ja`, `ja32` and the conditional jumps (`JumpView`), and with K the
decoder does not look at `src_reg`. -/
theorem ignoredSourceField : Obligations.IgnoredSourceField :=
  ⟨Instr.ignoresSrcField_iff, fun e groups _ n b h => decode_of_ignoresSrcField h e groups n b⟩

/-- Settles O4: an admitted word has the opcode byte of its instruction, which is in the tables, and
`opcodeSamples` has an instruction for each byte of the tables. -/
theorem undefinedOpcodesIllegal : Obligations.UndefinedOpcodesIllegal :=
  ⟨fun e groups _ b ha hlegacy => decode_of_undefined ha hlegacy e groups b,
    Instr.fields_opcode_mem,
    fun op h => ⟨not_legacy_of_mem_definedOpcodes op h, exists_instr_of_mem_definedOpcodes h⟩⟩

/-- Settles O10: the words are decoded by evaluation. -/
theorem wordsOfTheSpec : Obligations.WordsOfTheSpec := by
  unfold Obligations.WordsOfTheSpec
  decide

/-! ### The step at a word -/

theorem fetch_of_decode_ok {s : State} {a : Slot} {i : Instr} (ha : s.program[s.pc]? = some a)
    (h : decode s.params.hostEndian s.params.groups a s.program[s.pc + 1]? = .ok i) :
    fetch s = .ok i := by
  simp only [fetch, ha, h]

theorem fetch_of_length_le {s : State} (h : s.program.length ≤ s.pc) :
    fetch s = .error (.pcOutOfRange s.pc s.pc) := by
  simp only [fetch, List.getElem?_eq_none h]

theorem step_of_illegalEncoding {s : State} {a : Slot} (hs : s.status = .running)
    (ha : s.program[s.pc]? = some a)
    (h : decode s.params.hostEndian s.params.groups a s.program[s.pc + 1]? =
      .error .illegalEncoding) : step s = .fault (.illegalEncoding s.pc) := by
  rw [step_of_running hs, fetch_of_decode_error ha h]
  rfl

/-- Settles O11: a step is `exec` of what `fetch` answers. -/
theorem stepRunsTheDecodedInstruction : Obligations.StepRunsTheDecodedInstruction := by
  intro s first i hs hfirst h
  rw [step_of_running hs, fetch_of_decode_ok hfirst h]
  rfl

/-- Settles O12: past the program `fetch` finds no slot; at a word that spells nothing
`step_of_illegalEncoding` applies. -/
theorem fetchFaults : Obligations.FetchFaults := by
  intro s hs
  refine ⟨fun hpc => ?_, fun first hfirst h => step_of_illegalEncoding hs hfirst h⟩
  rw [step_of_running hs, fetch_of_length_le hpc]
  rfl

theorem reservedZero_eq_false {b : Slot} (h : ¬(b.b0 = 0 ∧ b.b1 = 0 ∧ b.b2 = 0 ∧ b.b3 = 0)) :
    b.reservedZero = false := by
  simpa [Slot.reservedZero, and_assoc] using h

/-- Settles O6: each of the three words is an illegal encoding, the last because 0x00 is in no table. -/
theorem wideNeedsItsSecondSlot : Obligations.WideNeedsItsSecondSlot := by
  intro s a hs ha
  refine ⟨fun hop hlast => ?_, fun b hop hb hreserved => ?_, fun hop => ?_⟩
  · have hnone : s.program[s.pc + 1]? = none := List.getElem?_eq_none hlast.ge
    refine step_of_illegalEncoding hs ha ?_
    rw [hnone]
    exact decode_of_wide_none hop
  · refine step_of_illegalEncoding hs ha ?_
    rw [hb, decode_of_wide hop, reservedZero_eq_false hreserved]
    rfl
  · refine step_of_illegalEncoding hs ha (decode_of_undefined ?_ ?_ _ _ _)
    · rw [hop]; decide
    · rw [hop]; unfold LegacyOpcode; decide

end Sys2Proof.Machine
end

section
/-! The arithmetic instructions (40_arithmetic.md): each row of the obligations from what its shared
operation answers on operands that hold values and on the first that holds none, and the readings of
`udivN`, `umodN`, `sdivN`, `smodN` and the masked shifts as the division and the powers of two of
R122, R124 and R125. -/

namespace Sys2Proof.Machine

section Rows

variable {s : State} {dst : Reg} {operand : Src} {a : Word} {opcode opK opX : BitVec 8}
  {off : BitVec 16} {imm : BitVec 32}

/-! ### Operands -/

theorem readReg32_low_half (h : s.reg dst = .value a) :
    readReg32 s dst = .ok (a.extractLsb' 0 32) := by
  rw [readReg32_of_value h, BitVec.setWidth_eq_extractLsb' (by decide)]

theorem Source64.read {b : Word} (h : Source64 s operand b) : source64 s operand = .ok b := by
  cases operand with
  | imm v => exact congrArg Except.ok (Eq.symm h)
  | reg r => exact readReg_of_value h

theorem Source32.read {b : Word32} (h : Source32 s operand b) : source32 s operand = .ok b := by
  cases operand with
  | imm v => exact congrArg Except.ok (Eq.symm h)
  | reg r =>
    obtain ⟨x, hx, rfl⟩ := h
    exact readReg32_low_half hx

theorem SourceMissing.read64 {r : Reg} (h : SourceMissing s operand r) :
    source64 s operand = .error (.uninitRegister s.pc r) :=
  source64_error.2 ⟨r, h.1, h.2, rfl⟩

theorem SourceMissing.read32 {r : Reg} (h : SourceMissing s operand r) :
    source32 s operand = .error (.uninitRegister s.pc r) :=
  source32_error.2 ⟨r, h.1, h.2, rfl⟩

/-! ### The row of each shared operation -/

theorem alu64Row_of_alu64 {c : Reg → Src → Instr} {op : Params → Word → Word → Word}
    (hfields : TwoFormFields c opK opX off)
    (hexec : ∀ dst src s, exec (c dst src) s = alu64 (op s.params) dst src s) :
    Alu64Row c opK opX off op := by
  refine ⟨hfields, fun dst src s => ?_⟩
  rw [hexec]
  refine ⟨fun a b ha hb => ?_, fun hdst => ?_, fun a r ha hr => ?_⟩
  · exact alu64_next.2 ⟨a, b, ha, hb.read, rfl⟩
  · exact alu64_fault.2 (.inl (readReg_of_noValue hdst))
  · exact alu64_fault.2 (.inr ⟨a, ha, hr.read64⟩)

theorem alu32Row_of_alu32 {c : Reg → Src → Instr} {op : Params → Word32 → Word32 → Word32}
    (hfields : TwoFormFields c opK opX off)
    (hexec : ∀ dst src s, exec (c dst src) s = alu32 (op s.params) dst src s) :
    Alu32Row c opK opX off op := by
  refine ⟨hfields, fun dst src s => ?_⟩
  rw [hexec]
  refine ⟨fun a b ha hb => ?_, fun hdst => ?_, fun a r ha hr => ?_⟩
  · exact alu32_next.2 ⟨_, b, readReg32_low_half ha, hb.read, rfl⟩
  · exact alu32_fault.2 (.inl (readReg32_of_noValue hdst))
  · exact alu32_fault.2 (.inr ⟨_, readReg32_low_half ha, hr.read32⟩)

theorem unaryRow_of_aluUnary {c : Reg → Instr} {f : Params → Word → Word}
    (hfields : ∀ dst, (c dst).fields = ⟨opcode, fieldOfReg dst, 0, 0, imm⟩)
    (hexec : ∀ dst s, exec (c dst) s = aluUnary (f s.params) dst s) :
    UnaryRow c opcode imm f := by
  intro dst s
  rw [hexec]
  exact ⟨hfields dst, fun a ha => aluUnary_next.2 ⟨a, ha, rfl⟩,
    fun hdst => aluUnary_fault.2 (readReg_of_noValue hdst)⟩

theorem moveRow_of_moveExtended {c : Reg → Reg → Instr} {f : Word → Word}
    (hfields : ∀ dst src, (c dst src).fields = ⟨opcode, fieldOfReg dst, fieldOfReg src, off, 0⟩)
    (hexec : ∀ dst src s, exec (c dst src) s = moveExtended f dst src s) :
    MoveRow c opcode off f := by
  intro dst src s
  rw [hexec]
  exact ⟨hfields dst src, fun v hv => moveExtended_next.2 ⟨v, hv, rfl⟩,
    fun hsrc => moveExtended_fault.2 (readReg_of_noValue hsrc)⟩

/-- The byte swaps take the low bits by truncation, which R170 writes as a bit range. -/
theorem unaryRow_of_swapLow {c : Reg → Instr} {w : Nat} {f : Params → BitVec w → BitVec w}
    (hw : w ≤ 64) (hfields : ∀ dst, (c dst).fields = ⟨opcode, fieldOfReg dst, 0, 0, imm⟩)
    (hexec : ∀ dst s, exec (c dst) s = swapLow w (f s.params) dst s) :
    UnaryRow c opcode imm fun p a => (f p (a.extractLsb' 0 w)).zeroExtend 64 := by
  simp only [← BitVec.setWidth_eq_extractLsb' hw]
  exact unaryRow_of_aluUnary hfields hexec

/-! ### Rows with the same results -/

theorem Alu64Row.congr {c : Reg → Src → Instr} {op op' : Params → Word → Word → Word}
    (h : Alu64Row c opK opX off op) (hop : ∀ p a b, op p a b = op' p a b) :
    Alu64Row c opK opX off op' := by
  obtain rfl : op = op' := funext fun p => funext₂ (hop p)
  exact h

theorem Alu32Row.congr {c : Reg → Src → Instr} {op op' : Params → Word32 → Word32 → Word32}
    (h : Alu32Row c opK opX off op) (hop : ∀ p a b, op p a b = op' p a b) :
    Alu32Row c opK opX off op' := by
  obtain rfl : op = op' := funext fun p => funext₂ (hop p)
  exact h

theorem UnaryRow.congr {c : Reg → Instr} {f f' : Params → Word → Word}
    (h : UnaryRow c opcode imm f) (hf : ∀ p a, f p a = f' p a) : UnaryRow c opcode imm f' := by
  obtain rfl : f = f' := funext₂ hf
  exact h

/-! ### What a row gives on operands that hold values -/

theorem Alu64Row.exec_eq {c : Reg → Src → Instr} {op : Params → Word → Word → Word} {b : Word}
    (h : Alu64Row c opK opX off op) (ha : s.reg dst = .value a) (hb : Source64 s operand b) :
    exec (c dst operand) s = .next ((s.writeReg dst (op s.params a b)).advance 1) :=
  (h.2 dst operand s).1 a b ha hb

theorem Alu32Row.exec_eq {c : Reg → Src → Instr} {op : Params → Word32 → Word32 → Word32}
    {b : Word32} (h : Alu32Row c opK opX off op) (ha : s.reg dst = .value a)
    (hb : Source32 s operand b) :
    exec (c dst operand) s =
      .next ((s.writeReg dst ((op s.params (a.extractLsb' 0 32) b).zeroExtend 64)).advance 1) :=
  (h.2 dst operand s).1 a b ha hb

end Rows

/-! ### Addition, subtraction, multiplication and the bitwise operations -/

/-- Settles O27: each is `alu64` or `alu32` at its operation. -/
theorem addSubMul : Obligations.AddSubMul :=
  ⟨alu64Row_of_alu64 ⟨fun _ _ => rfl, fun _ _ => rfl⟩ fun _ _ _ => rfl,
    alu32Row_of_alu32 ⟨fun _ _ => rfl, fun _ _ => rfl⟩ fun _ _ _ => rfl,
    alu64Row_of_alu64 ⟨fun _ _ => rfl, fun _ _ => rfl⟩ fun _ _ _ => rfl,
    alu32Row_of_alu32 ⟨fun _ _ => rfl, fun _ _ => rfl⟩ fun _ _ _ => rfl,
    alu64Row_of_alu64 ⟨fun _ _ => rfl, fun _ _ => rfl⟩ fun _ _ _ => rfl,
    alu32Row_of_alu32 ⟨fun _ _ => rfl, fun _ _ => rfl⟩ fun _ _ _ => rfl⟩

/-- Settles O28: each is `alu64` or `alu32` at its operation. -/
theorem bitwiseOps : Obligations.BitwiseOps :=
  ⟨alu64Row_of_alu64 ⟨fun _ _ => rfl, fun _ _ => rfl⟩ fun _ _ _ => rfl,
    alu32Row_of_alu32 ⟨fun _ _ => rfl, fun _ _ => rfl⟩ fun _ _ _ => rfl,
    alu64Row_of_alu64 ⟨fun _ _ => rfl, fun _ _ => rfl⟩ fun _ _ _ => rfl,
    alu32Row_of_alu32 ⟨fun _ _ => rfl, fun _ _ => rfl⟩ fun _ _ _ => rfl,
    alu64Row_of_alu64 ⟨fun _ _ => rfl, fun _ _ => rfl⟩ fun _ _ _ => rfl,
    alu32Row_of_alu32 ⟨fun _ _ => rfl, fun _ _ => rfl⟩ fun _ _ _ => rfl⟩

/-! ### Division and remainder (40_arithmetic.md R124, R125) -/

section Division

variable {w : Nat}

/-- The product taken away lies below the dividend, so the subtraction wraps nothing. -/
theorem sub_mul_udiv_eq_umod (a b : BitVec w) : a - b * (a / b) = a % b := by
  apply sub_eq_of_eq_add'
  apply BitVec.eq_of_toNat_eq
  calc a.toNat = (b.toNat * (a.toNat / b.toNat) + a.toNat % b.toNat) % 2 ^ w := by
        rw [Nat.div_add_mod, Nat.mod_eq_of_lt a.isLt]
    _ = (b * (a / b) + a % b).toNat := by
        rw [BitVec.toNat_add, BitVec.toNat_mul, BitVec.toNat_udiv, BitVec.toNat_umod,
          Nat.mod_add_mod]

theorem udivN_eq_udiv (a b : BitVec w) : udivN a b = if b = 0 then 0 else a / b := by
  rw [udivN, BitVec.udiv_def]

theorem umodN_eq_sub_mul_udiv (a b : BitVec w) :
    umodN a b = if b = 0 then a else a - b * (a / b) := by
  rw [umodN, sub_mul_udiv_eq_umod, BitVec.umod_def]

theorem toInt_neg_one (hw : 0 < w) : (-1 : BitVec w).toInt = -1 := by
  have hones : (-1 : BitVec w) = BitVec.allOnes w := BitVec.neg_one_eq_allOnes
  rw [hones, BitVec.toInt_allOnes, if_pos hw]

/-- The one quotient that does not fit the width wraps to `MIN_N` (R125). -/
theorem ofInt_intMin_tdiv_neg_one (hw : 0 < w) :
    BitVec.ofInt w ((BitVec.intMin w).toInt.tdiv (-1 : BitVec w).toInt) = BitVec.intMin w := by
  rw [toInt_neg_one hw, Int.tdiv_neg, Int.tdiv_one, BitVec.ofInt_neg, BitVec.ofInt_toInt,
    BitVec.neg_intMin]

theorem ofInt_tmod_neg_one (hw : 0 < w) (a : BitVec w) :
    BitVec.ofInt w (a.toInt.tmod (-1 : BitVec w).toInt) = 0 := by
  rw [toInt_neg_one hw, Int.tmod_neg, Int.tmod_one]
  rfl

theorem sdivN_eq_tdiv (hw : 0 < w) (a b : BitVec w) :
    sdivN a b = if b = 0 then 0 else if a = BitVec.intMin w ∧ b = -1 then BitVec.intMin w
      else BitVec.ofInt w (a.toInt.tdiv b.toInt) := by
  rw [sdivN]
  congr 1
  split
  case isTrue h => obtain ⟨rfl, rfl⟩ := h; exact ofInt_intMin_tdiv_neg_one hw
  case isFalse => rfl

theorem smodN_eq_sub_mul_tdiv (hw : 0 < w) (a b : BitVec w) :
    smodN a b = if b = 0 then a else if a = BitVec.intMin w ∧ b = -1 then 0
      else BitVec.ofInt w (a.toInt - b.toInt * a.toInt.tdiv b.toInt) := by
  rw [smodN, ← Int.tmod_def]
  congr 1
  split
  case isTrue h => obtain ⟨rfl, rfl⟩ := h; exact ofInt_tmod_neg_one hw _
  case isFalse => rfl

end Division

/-- Settles O29: `alu64` and `alu32` at `udivN` and `umodN`, read as quotient and remainder. -/
theorem unsignedDivMod : Obligations.UnsignedDivMod :=
  ⟨(alu64Row_of_alu64 (op := fun _ => udivN) ⟨fun _ _ => rfl, fun _ _ => rfl⟩
      fun _ _ _ => rfl).congr fun _ => udivN_eq_udiv,
    (alu32Row_of_alu32 (op := fun _ => udivN) ⟨fun _ _ => rfl, fun _ _ => rfl⟩
      fun _ _ _ => rfl).congr fun _ => udivN_eq_udiv,
    (alu64Row_of_alu64 (op := fun _ => umodN) ⟨fun _ _ => rfl, fun _ _ => rfl⟩
      fun _ _ _ => rfl).congr fun _ => umodN_eq_sub_mul_udiv,
    (alu32Row_of_alu32 (op := fun _ => umodN) ⟨fun _ _ => rfl, fun _ _ => rfl⟩
      fun _ _ _ => rfl).congr fun _ => umodN_eq_sub_mul_udiv⟩

/-- Settles O30: `alu64` and `alu32` at `sdivN` and `smodN`, with `MIN_N` by `-1` set apart. -/
theorem signedDivMod : Obligations.SignedDivMod :=
  ⟨(alu64Row_of_alu64 (op := fun _ => sdivN) ⟨fun _ _ => rfl, fun _ _ => rfl⟩
      fun _ _ _ => rfl).congr fun _ => sdivN_eq_tdiv (by decide),
    (alu32Row_of_alu32 (op := fun _ => sdivN) ⟨fun _ _ => rfl, fun _ _ => rfl⟩
      fun _ _ _ => rfl).congr fun _ => sdivN_eq_tdiv (by decide),
    (alu64Row_of_alu64 (op := fun _ => smodN) ⟨fun _ _ => rfl, fun _ _ => rfl⟩
      fun _ _ _ => rfl).congr fun _ => smodN_eq_sub_mul_tdiv (by decide),
    (alu32Row_of_alu32 (op := fun _ => smodN) ⟨fun _ _ => rfl, fun _ _ => rfl⟩
      fun _ _ _ => rfl).congr fun _ => smodN_eq_sub_mul_tdiv (by decide)⟩

/-! ### Shifts (40_arithmetic.md R122) -/

/-- Settles O31: each is `alu64` or `alu32` at its shift, with the mask of the run. -/
theorem shifts : Obligations.Shifts :=
  ⟨alu64Row_of_alu64 ⟨fun _ _ => rfl, fun _ _ => rfl⟩ fun _ _ _ => rfl,
    alu32Row_of_alu32 ⟨fun _ _ => rfl, fun _ _ => rfl⟩ fun _ _ _ => rfl,
    alu64Row_of_alu64 ⟨fun _ _ => rfl, fun _ _ => rfl⟩ fun _ _ _ => rfl,
    alu32Row_of_alu32 ⟨fun _ _ => rfl, fun _ _ => rfl⟩ fun _ _ _ => rfl,
    alu64Row_of_alu64 ⟨fun _ _ => rfl, fun _ _ => rfl⟩ fun _ _ _ => rfl,
    alu32Row_of_alu32 ⟨fun _ _ => rfl, fun _ _ => rfl⟩ fun _ _ _ => rfl⟩

section Shifts

variable {w : Nat}

/-- A mask of `k` ones takes a count modulo `2 ^ k`. -/
theorem toNat_and_ones {k : Nat} (b : BitVec w) {mask : BitVec w} (h : mask.toNat = 2 ^ k - 1) :
    (b &&& mask).toNat = b.toNat % 2 ^ k := by
  rw [BitVec.toNat_and, h, Nat.and_two_pow_sub_one_eq_mod]

theorem shiftLeft_eq_ofNat_mul (a : BitVec w) (n : Nat) :
    a <<< n = BitVec.ofNat w (a.toNat * 2 ^ n) := by
  apply BitVec.eq_of_toNat_eq
  rw [BitVec.toNat_shiftLeft, Nat.shiftLeft_eq, BitVec.toNat_ofNat]

theorem ushiftRight_eq_ofNat_div (a : BitVec w) (n : Nat) :
    a >>> n = BitVec.ofNat w (a.toNat / 2 ^ n) := by
  rw [← Nat.shiftRight_eq_div_pow, ← BitVec.toNat_ushiftRight, BitVec.ofNat_toNat,
    BitVec.setWidth_eq]

/-- Integer division by a positive number rounds down, as the arithmetic shift does. -/
theorem sshiftRight_eq_ofInt_div (a : BitVec w) (n : Nat) :
    a.sshiftRight n = BitVec.ofInt w (a.toInt / 2 ^ n) := by
  rw [BitVec.sshiftRight, Int.shiftRight_eq_div_pow, Nat.cast_pow, Nat.cast_ofNat]

end Shifts

/-- Settles O32: the rows of `shifts`, with the mask read as a modulus and the shift as arithmetic. -/
theorem shiftsAsArithmetic : Obligations.ShiftsAsArithmetic := by
  obtain ⟨hlsh64, hlsh32, hrsh64, hrsh32, harsh64, harsh32⟩ := shifts
  intro dst src s a ha
  refine ⟨fun hmask b hb => ?_, fun hmask b hb => ?_⟩
  · have hcount : (b &&& s.params.shiftMask64).toNat = b.toNat % 64 :=
      toNat_and_ones (k := 6) b (by rw [hmask]; rfl)
    rw [hlsh64.exec_eq ha hb, hrsh64.exec_eq ha hb, harsh64.exec_eq ha hb, hcount,
      shiftLeft_eq_ofNat_mul, ushiftRight_eq_ofNat_div, sshiftRight_eq_ofInt_div]
    exact ⟨rfl, rfl, rfl⟩
  · have hcount : (b &&& s.params.shiftMask32).toNat = b.toNat % 32 :=
      toNat_and_ones (k := 5) b (by rw [hmask]; rfl)
    rw [hlsh32.exec_eq ha hb, hrsh32.exec_eq ha hb, harsh32.exec_eq ha hb, hcount,
      shiftLeft_eq_ofNat_mul, ushiftRight_eq_ofNat_div, sshiftRight_eq_ofInt_div]
    exact ⟨rfl, rfl, rfl⟩

/-! ### Negation, moves and byte swaps -/

theorem mov64Row_mov64 : Mov64Row .mov64 0xb7 0xbf := by
  refine ⟨⟨fun _ _ => rfl, fun _ _ => rfl⟩, fun dst src s => ⟨fun b hb => ?_, fun r hr => ?_⟩⟩
  · exact orFault_next.2 ⟨b, hb.read, rfl⟩
  · exact orFault_fault.2 (.inl hr.read64)

theorem mov32Row_mov32 : Mov32Row .mov32 0xb4 0xbc := by
  refine ⟨⟨fun _ _ => rfl, fun _ _ => rfl⟩, fun dst src s => ⟨fun b hb => ?_, fun r hr => ?_⟩⟩
  · exact orFault_next.2 ⟨b, hb.read, rfl⟩
  · exact orFault_fault.2 (.inl hr.read32)

/-- Settles O33: neg is `aluUnary`; mov reads its source operand alone. -/
theorem negMov : Obligations.NegMov :=
  ⟨unaryRow_of_aluUnary (fun _ => rfl) fun _ _ => rfl,
    unaryRow_of_aluUnary (fun _ => rfl) fun _ _ => rfl, mov64Row_mov64, mov32Row_mov32⟩

/-- Settles O34: each is `moveExtended` at its extension. -/
theorem signExtendingMoves : Obligations.SignExtendingMoves :=
  ⟨moveRow_of_moveExtended (fun _ _ => rfl) fun _ _ _ => rfl,
    moveRow_of_moveExtended (fun _ _ => rfl) fun _ _ _ => rfl,
    moveRow_of_moveExtended (fun _ _ => rfl) fun _ _ _ => rfl,
    moveRow_of_moveExtended (fun _ _ => rfl) fun _ _ _ => rfl,
    moveRow_of_moveExtended (fun _ _ => rfl) fun _ _ _ => rfl⟩

/-- A swap of the whole register needs no bit range and no extension. -/
theorem unaryRow_of_swapLow_64 {c : Reg → Instr} {opcode : BitVec 8} {imm : BitVec 32}
    {f : Params → Word → Word}
    (hfields : ∀ dst, (c dst).fields = ⟨opcode, fieldOfReg dst, 0, 0, imm⟩)
    (hexec : ∀ dst s, exec (c dst) s = swapLow 64 (f s.params) dst s) :
    UnaryRow c opcode imm f :=
  (unaryRow_of_swapLow le_rfl hfields hexec).congr fun p a => by
    rw [BitVec.extractLsb'_eq_self, BitVec.zeroExtend, BitVec.setWidth_eq]

/-- Settles O35: each is `swapLow` at its width; TO_LE and TO_BE are read off at each host order. -/
theorem byteSwaps : Obligations.ByteSwaps :=
  ⟨(unaryRow_of_swapLow (f := fun p => toLittle p.hostEndian) (by decide) (fun _ => rfl)
      fun _ _ => rfl).congr fun p _ => by cases p.hostEndian <;> rfl,
    (unaryRow_of_swapLow (f := fun p => toLittle p.hostEndian) (by decide) (fun _ => rfl)
      fun _ _ => rfl).congr fun p _ => by cases p.hostEndian <;> rfl,
    (unaryRow_of_swapLow_64 (f := fun p => toLittle p.hostEndian) (fun _ => rfl)
      fun _ _ => rfl).congr fun p _ => by cases p.hostEndian <;> rfl,
    (unaryRow_of_swapLow (f := fun p => toBig p.hostEndian) (by decide) (fun _ => rfl)
      fun _ _ => rfl).congr fun p _ => by cases p.hostEndian <;> rfl,
    (unaryRow_of_swapLow (f := fun p => toBig p.hostEndian) (by decide) (fun _ => rfl)
      fun _ _ => rfl).congr fun p _ => by cases p.hostEndian <;> rfl,
    (unaryRow_of_swapLow_64 (f := fun p => toBig p.hostEndian) (fun _ => rfl)
      fun _ _ => rfl).congr fun p _ => by cases p.hostEndian <;> rfl,
    unaryRow_of_swapLow (f := fun _ => bswapN) (by decide) (fun _ => rfl) fun _ _ => rfl,
    unaryRow_of_swapLow (f := fun _ => bswapN) (by decide) (fun _ => rfl) fun _ _ => rfl,
    unaryRow_of_swapLow_64 (f := fun _ => bswapN) (fun _ => rfl) fun _ _ => rfl⟩

end Sys2Proof.Machine
end

section
/-! The faults an executed instruction can raise, family by family (60_exceptions.md R301): the faults
of the shared operations of Laws/Ops.lean, through the shapes of Laws/Shape.lean. Each carries the
`pc` of the state. -/

namespace Sys2Proof.Machine

variable {i : Instr} {s : State} {f : Fault}

/-! ### The faults that families share -/

/-- The fault of a read of a register that holds no value (60_exceptions.md R305). -/
def IsUninitRegister (s : State) (f : Fault) : Prop := ∃ r, f = .uninitRegister s.pc r

/-- The faults of a control transfer (41_jump.md R181; 60_exceptions.md R303, R304). -/
def IsBadTarget (s : State) (f : Fault) : Prop :=
  (∃ t, f = .pcOutOfRange s.pc t) ∨ ∃ t, f = .jumpIntoWide s.pc t

/-- The faults of a plain access of one kind (20_memory.md R55, R56). -/
def IsBadAccess (s : State) (kind : Access) (f : Fault) : Prop :=
  (∃ a n, f = .memAccess s.pc a n kind) ∨ ∃ a n, f = .misaligned s.pc a n

/-- The faults of an atomic access, which reads and writes (43_atomic.md R251). -/
def IsBadAtomicAccess (s : State) (f : Fault) : Prop :=
  (∃ a n k, f = .memAccess s.pc a n k) ∨ ∃ a n, f = .misaligned s.pc a n

theorem readReg_isUninitRegister {r : Reg} (h : readReg s r = .error f) : IsUninitRegister s f :=
  ⟨r, (readReg_error.1 h).2⟩

theorem readReg32_isUninitRegister {r : Reg} (h : readReg32 s r = .error f) :
    IsUninitRegister s f :=
  ⟨r, (readReg32_error.1 h).2⟩

theorem source64_isUninitRegister {src : Src} (h : source64 s src = .error f) :
    IsUninitRegister s f := by
  obtain ⟨r, -, -, hf⟩ := source64_error.1 h
  exact ⟨r, hf⟩

theorem source32_isUninitRegister {src : Src} (h : source32 s src = .error f) :
    IsUninitRegister s f := by
  obtain ⟨r, -, -, hf⟩ := source32_error.1 h
  exact ⟨r, hf⟩

theorem jumpTarget_isBadTarget {t : Int} (h : jumpTarget s t = .error f) : IsBadTarget s f := by
  obtain ⟨-, hf⟩ | ⟨k, -, -, -, hf⟩ := jumpTarget_error.1 h
  · exact .inl ⟨t, hf⟩
  · exact .inr ⟨k, hf⟩

theorem jumpBy_isBadTarget {d : Int} (h : jumpBy s d = .fault f) : IsBadTarget s f :=
  jumpTarget_isBadTarget (jumpBy_fault.1 h)

theorem memRead_isBadAccess {a : Word} {w : Nat} (h : memRead s a w = .error f) :
    IsBadAccess s .read f :=
  (memRead_error h).imp (fun hf => ⟨_, _, hf⟩) fun hf => ⟨_, _, hf⟩

theorem store_isBadAccess {w : Nat} {b : Word} {off : BitVec 16} {v : BitVec w}
    (h : store b off v s = .fault f) : IsBadAccess s .write f :=
  (memWrite_error (store_fault.1 h)).imp (fun hf => ⟨_, _, hf⟩) fun hf => ⟨_, _, hf⟩

theorem atomicCheck_isBadAtomicAccess {a : Word} {n : Nat} (h : atomicCheck s a n = .error f) :
    IsBadAtomicAccess s f := by
  obtain hf | ⟨k, hf⟩ := atomicCheck_error h
  · exact .inr ⟨a, n, hf⟩
  · exact .inl ⟨a, n, k, hf⟩

theorem atomicUpdate_faults {w : Nat} {g : BitVec w → BitVec w → BitVec w}
    {finish : BitVec w → State → State} {base src : Reg} {off : BitVec 16}
    (h : atomicUpdate w g finish base off src s = .fault f) :
    IsUninitRegister s f ∨ IsBadAtomicAccess s f := by
  obtain hb | ⟨b, -, hv | ⟨v, -, hc⟩⟩ := atomicUpdate_fault.1 h
  · exact .inl (readReg_isUninitRegister hb)
  · exact .inl (readReg_isUninitRegister hv)
  · exact .inr (atomicCheck_isBadAtomicAccess hc)

/-! ### Each family -/

theorem exec_arithmetic_faults (hi : i.family = .arithmetic) (h : exec i s = .fault f) :
    IsUninitRegister s f := by
  obtain ⟨g, dst, src, he⟩ | ⟨g, dst, src, he⟩ | ⟨g, dst, he⟩ | ⟨g, dst, src, he⟩ |
    ⟨dst, src, he⟩ | ⟨dst, src, he⟩ := exec_arithmetic_shape s hi <;> rw [he] at h
  case inl =>
    obtain hdst | ⟨a, -, hsrc⟩ := alu64_fault.1 h
    · exact readReg_isUninitRegister hdst
    · exact source64_isUninitRegister hsrc
  case inr.inl =>
    obtain hdst | ⟨a, -, hsrc⟩ := alu32_fault.1 h
    · exact readReg32_isUninitRegister hdst
    · exact source32_isUninitRegister hsrc
  case inr.inr.inl => exact readReg_isUninitRegister (aluUnary_fault.1 h)
  case inr.inr.inr.inl => exact readReg_isUninitRegister (moveExtended_fault.1 h)
  case inr.inr.inr.inr.inl =>
    obtain hsrc | ⟨v, -, hnext⟩ := orFault_fault.1 h
    · exact source64_isUninitRegister hsrc
    · cases hnext
  case inr.inr.inr.inr.inr =>
    obtain hsrc | ⟨v, -, hnext⟩ := orFault_fault.1 h
    · exact source32_isUninitRegister hsrc
    · cases hnext

theorem exec_jump_faults (hi : i.family = .jump) (h : exec i s = .fault f) :
    IsUninitRegister s f ∨ IsBadTarget s f := by
  obtain ⟨d, he⟩ | ⟨c, dst, src, off, he⟩ | ⟨c, dst, src, off, he⟩ := exec_jump_shape s hi <;>
    rw [he] at h
  case inl => exact .inr (jumpBy_isBadTarget h)
  case inr.inl =>
    obtain hdst | ⟨a, -, hsrc⟩ | ⟨a, b, -, -, -, hjump⟩ := jump64_fault.1 h
    · exact .inl (readReg_isUninitRegister hdst)
    · exact .inl (source64_isUninitRegister hsrc)
    · exact .inr (jumpBy_isBadTarget hjump)
  case inr.inr =>
    obtain hdst | ⟨a, -, hsrc⟩ | ⟨a, b, -, -, -, hjump⟩ := jump32_fault.1 h
    · exact .inl (readReg32_isUninitRegister hdst)
    · exact .inl (source32_isUninitRegister hsrc)
    · exact .inr (jumpBy_isBadTarget hjump)

theorem exec_load_faults (hi : i.family = .load) (h : exec i s = .fault f) :
    IsUninitRegister s f ∨ IsBadAccess s .read f := by
  obtain ⟨w, ext, dst, base, off, he⟩ := exec_load_shape s hi
  rw [he] at h
  obtain hb | ⟨b, -, hread⟩ := load_fault.1 h
  · exact .inl (readReg_isUninitRegister hb)
  · exact .inr (memRead_isBadAccess hread)

theorem exec_store_faults (hi : i.family = .store) (h : exec i s = .fault f) :
    IsUninitRegister s f ∨ IsBadAccess s .write f := by
  obtain ⟨w, base, off, imm, he⟩ | ⟨w, base, off, src, he⟩ := exec_store_shape s hi <;>
    rw [he] at h
  case inl =>
    obtain hb | ⟨b, -, hstore⟩ := storeImm_fault.1 h
    · exact .inl (readReg_isUninitRegister hb)
    · exact .inr (store_isBadAccess hstore)
  case inr =>
    obtain hb | ⟨b, -, hv | ⟨v, -, hstore⟩⟩ := storeReg_fault.1 h
    · exact .inl (readReg_isUninitRegister hb)
    · exact .inl (readReg_isUninitRegister hv)
    · exact .inr (store_isBadAccess hstore)

theorem exec_atomic_faults (hi : i.family = .atomic) (h : exec i s = .fault f) :
    IsUninitRegister s f ∨ IsBadAtomicAccess s f := by
  obtain ⟨w, g, base, off, src, he⟩ | ⟨w, g, base, off, src, he⟩ := exec_atomic_shape s hi <;>
    rw [he] at h
  case inl => exact atomicUpdate_faults h
  case inr => exact atomicUpdate_faults h

theorem exec_compareExchange_faults (hi : i.family = .compareExchange) (h : exec i s = .fault f) :
    IsUninitRegister s f ∨ IsBadAtomicAccess s f := by
  obtain ⟨w, base, off, src, he⟩ := exec_compareExchange_shape s hi
  rw [he] at h
  obtain hb | ⟨b, -, hv | ⟨v, -, h0 | ⟨r0, -, hc⟩⟩⟩ := atomicCompare_fault.1 h
  · exact .inl (readReg_isUninitRegister hb)
  · exact .inl (readReg_isUninitRegister hv)
  · exact .inl (readReg_isUninitRegister h0)
  · exact .inr (atomicCheck_isBadAtomicAccess hc)

theorem execCallLocal_faults {imm : BitVec 32} (h : execCallLocal imm s = .fault f) :
    f = .callDepth s.pc ∨ IsBadTarget s f := by
  unfold execCallLocal at h
  split at h
  case isTrue => cases h; exact .inl rfl
  case isFalse =>
    obtain htarget | ⟨k, -, hnext⟩ := orFault_fault.1 h
    · exact .inr (jumpTarget_isBadTarget htarget)
    · cases hnext

theorem exec_localCall_faults (hi : i.family = .localCall) (h : exec i s = .fault f) :
    f = .callDepth s.pc ∨ IsBadTarget s f := by
  cases i with
  | callLocal imm => exact execCallLocal_faults h
  | _ => cases hi

theorem execExit_faults (h : execExit s = .fault f) : f = .uninitRegister s.pc 0 := by
  obtain h0 | ⟨v, -, hnext⟩ := orFault_fault.1 h
  · exact (readReg_error.1 h0).2
  · split at hnext <;> cases hnext

theorem exec_exit_faults (hi : i.family = .exit) (h : exec i s = .fault f) :
    f = .uninitRegister s.pc 0 := by
  cases i with
  | exit => exact execExit_faults h
  | _ => cases hi

theorem exec_imm64_faults (hi : i.family = .imm64) (h : exec i s = .fault f) :
    ∃ what, f = .unsupported s.pc what := by
  obtain ⟨dst, v, he⟩ | ⟨dst, v, what, he⟩ := exec_imm64_shape s hi <;> rw [he] at h
  case inl => cases h
  case inr => exact ⟨what, (loadPlatform_fault.1 h).2⟩

/-- Settles O26: the faults of each family, above. -/
theorem faultsOfEachFamily : Obligations.FaultsOfEachFamily := by
  intro i s f h
  refine ⟨fun hi => exec_arithmetic_faults hi h, fun hi => exec_jump_faults hi h,
    fun hi => exec_load_faults hi h, fun hi => exec_store_faults hi h, ?_,
    fun hi => exec_localCall_faults hi h, fun hi => exec_exit_faults hi h,
    fun hi => exec_imm64_faults hi h⟩
  rintro (hi | hi)
  · exact exec_atomic_faults hi h
  · exact exec_compareExchange_faults hi h

end Sys2Proof.Machine
end

section
/-! Control transfers (41_jump.md R181 to R198, R207 to R214): what `SetPc` answers, the second slots as
the sweep from slot 0 defines them, and the rows of the jumps. -/

namespace Sys2Proof.Machine

variable {s : State} {program : List Slot} {k : Nat}

/-! ### The sweep from slot 0 (41_jump.md R181) -/

theorem Start.secondSlot_eq_false (h : Start program k) : secondSlot program k = false := by
  induction h with
  | first => exact secondSlot_zero program
  | wide _ hsl hw ih => exact secondSlot_after_wide hsl hw ih
  | basic _ hsl hb _ => exact secondSlot_after_basic hsl hb

/-- The sweep leaves no slot out: it reaches the slot, or it stepped over it. -/
theorem start_or_isSecondSlot (hk : k < program.length) :
    Start program k ∨ IsSecondSlot program k := by
  induction k with
  | zero => exact .inl .first
  | succ k ih =>
    have hlt : k < program.length := Nat.lt_of_succ_lt hk
    have hsl := List.getElem?_eq_getElem hlt
    obtain hstart | ⟨j, sl, rfl, hj, hslj, hw⟩ := ih hlt
    · by_cases hw : program[k].b0 = 0x18
      · exact .inr ⟨k, _, rfl, hstart, hsl, hw⟩
      · exact .inl (.basic hstart hsl hw)
    · exact .inl (.wide hj hslj hw)

theorem lt_length_of_secondSlot (h : secondSlot program k = true) : k < program.length := by
  by_contra hk
  rw [secondSlot_past_end program (Nat.le_of_not_lt hk)] at h
  cases h

theorem sweep_eq_secondSlot (hk : k < program.length) :
    sweep false program k = secondSlot program k := by
  rw [secondSlot, decide_eq_true hk, Bool.true_and]

theorem IsSecondSlot.secondSlot_eq_true (h : IsSecondSlot program k) (hk : k < program.length) :
    secondSlot program k = true := by
  obtain ⟨j, sl, rfl, hj, hsl, hw⟩ := h
  rw [← sweep_eq_secondSlot hk, sweep_succ hsl, sweep_eq_secondSlot (Nat.lt_of_succ_lt hk),
    hj.secondSlot_eq_false, hw]
  rfl

/-- Settles O40: the sweep marks every slot as a start or as a second slot, and the machine's check
tells the two apart. -/
theorem secondSlotsBySweep : Obligations.SecondSlotsBySweep := by
  intro program k
  refine ⟨⟨fun h => ?_, fun ⟨hk, h⟩ => h.secondSlot_eq_true hk⟩,
    fun hk => ⟨fun h => ?_, Start.secondSlot_eq_false⟩⟩
  · have hk := lt_length_of_secondSlot h
    refine ⟨hk, (start_or_isSecondSlot hk).resolve_left fun hstart => ?_⟩
    exact Bool.false_ne_true (hstart.secondSlot_eq_false.symm.trans h)
  · refine (start_or_isSecondSlot hk).resolve_right fun hsecond => ?_
    exact Bool.false_ne_true (h.symm.trans (hsecond.secondSlot_eq_true hk))

/-! ### SetPc -/

theorem setPc_jumpBy (s : State) (delta : Int) :
    SetPc s ((s.pc : Int) + 1 + delta) (jumpBy s delta) := by
  refine ⟨fun hout => ?_, fun k ht hk hsecond => ?_, fun k ht hk hsecond => ?_⟩
  · exact jumpBy_fault.2 (jumpTarget_error.2 (.inl ⟨hout, rfl⟩))
  · exact jumpBy_fault.2 (jumpTarget_error.2 (.inr ⟨k, ht, hk, hsecond, rfl⟩))
  · exact jumpBy_next.2 ⟨k, ht, hk, hsecond, rfl⟩

/-- Settles O39: `ja` and `ja32` are `jumpBy` at their distances. -/
theorem unconditionalJumps : Obligations.UnconditionalJumps :=
  fun s => ⟨fun _ => ⟨rfl, setPc_jumpBy s _⟩, fun _ => ⟨rfl, setPc_jumpBy s _⟩⟩

/-! ### The conditions (41_jump.md R185 to R214) -/

section Conditions

variable {w : Nat} (a b : BitVec w)

theorem condEq_iff : condEq a b = true ↔ a = b := beq_iff_eq

theorem condNe_iff : condNe a b = true ↔ a ≠ b := bne_iff_ne

theorem condSet_iff : condSet a b = true ↔ a &&& b ≠ 0 := bne_iff_ne

theorem condGt_iff : condGt a b = true ↔ a.toNat > b.toNat := decide_eq_true_iff

theorem condGe_iff : condGe a b = true ↔ a.toNat ≥ b.toNat := decide_eq_true_iff

theorem condLt_iff : condLt a b = true ↔ a.toNat < b.toNat := decide_eq_true_iff

theorem condLe_iff : condLe a b = true ↔ a.toNat ≤ b.toNat := decide_eq_true_iff

theorem condSgt_iff : condSgt a b = true ↔ a.toInt > b.toInt := decide_eq_true_iff

theorem condSge_iff : condSge a b = true ↔ a.toInt ≥ b.toInt := decide_eq_true_iff

theorem condSlt_iff : condSlt a b = true ↔ a.toInt < b.toInt := decide_eq_true_iff

theorem condSle_iff : condSle a b = true ↔ a.toInt ≤ b.toInt := decide_eq_true_iff

end Conditions

/-! ### Conditional jumps (41_jump.md R180, R182) -/

theorem jump64_of_values {c : Word → Word → Bool} {dst : Reg} {src : Src} {off : BitVec 16}
    {a b : Word} (ha : s.reg dst = .value a) (hb : Source64 s src b) :
    jump64 c dst src off s = if c a b then jumpBy s off.toInt else .next (s.advance 1) := by
  rw [jump64, readReg_of_value ha, orFault_ok, hb.read, orFault_ok]

theorem jump32_of_values {c : Word32 → Word32 → Bool} {dst : Reg} {src : Src} {off : BitVec 16}
    {a : Word} {b : Word32} (ha : s.reg dst = .value a) (hb : Source32 s src b) :
    jump32 c dst src off s =
      if c (a.extractLsb' 0 32) b then jumpBy s off.toInt else .next (s.advance 1) := by
  rw [jump32, readReg32_low_half ha, orFault_ok, hb.read, orFault_ok]

/-- A branch on a condition: `SetPc` where it holds, else the next slot. -/
theorem branch_of_condition (s : State) (delta : Int) {c : Bool} {p : Prop} (hc : c = true ↔ p) :
    (p → SetPc s ((s.pc : Int) + 1 + delta)
      (if c then jumpBy s delta else .next (s.advance 1))) ∧
    (¬p →
      (if c then jumpBy s delta else .next (s.advance 1)) = .next { s with pc := s.pc + 1 }) := by
  refine ⟨fun hp => ?_, fun hp => ?_⟩
  · rw [if_pos (hc.2 hp)]
    exact setPc_jumpBy s delta
  · rw [if_neg (mt hc.1 hp)]
    rfl

theorem jump64Row_of_jump64 {i : Reg → Src → BitVec 16 → Instr} {opK opX : BitVec 8}
    {c : Word → Word → Bool} {cond : Word → Word → Prop}
    (hcond : ∀ a b, c a b = true ↔ cond a b)
    (hfields : JumpFields i opK opX := by exact ⟨fun _ _ _ => rfl, fun _ _ _ => rfl⟩)
    (hexec : ∀ dst src off s, exec (i dst src off) s = jump64 c dst src off s := by intros; rfl) :
    Jump64Row i opK opX cond := by
  refine ⟨hfields, fun dst src off s => ?_⟩
  rw [hexec]
  refine ⟨fun a b ha hb => ?_, fun hdst => ?_, fun a r ha hr => ?_⟩
  · rw [jump64_of_values ha hb]
    exact branch_of_condition s _ (hcond a b)
  · exact jump64_fault.2 (.inl (readReg_of_noValue hdst))
  · exact jump64_fault.2 (.inr (.inl ⟨a, ha, hr.read64⟩))

theorem jump32Row_of_jump32 {i : Reg → Src → BitVec 16 → Instr} {opK opX : BitVec 8}
    {c : Word32 → Word32 → Bool} {cond : Word32 → Word32 → Prop}
    (hcond : ∀ a b, c a b = true ↔ cond a b)
    (hfields : JumpFields i opK opX := by exact ⟨fun _ _ _ => rfl, fun _ _ _ => rfl⟩)
    (hexec : ∀ dst src off s, exec (i dst src off) s = jump32 c dst src off s := by intros; rfl) :
    Jump32Row i opK opX cond := by
  refine ⟨hfields, fun dst src off s => ?_⟩
  rw [hexec]
  refine ⟨fun a b ha hb => ?_, fun hdst => ?_, fun a r ha hr => ?_⟩
  · rw [jump32_of_values ha hb]
    exact branch_of_condition s _ (hcond _ b)
  · exact jump32_fault.2 (.inl (readReg32_of_noValue hdst))
  · exact jump32_fault.2 (.inr (.inl ⟨_, readReg32_low_half ha, hr.read32⟩))

/-- Settles O41: each is `jump64` at its condition. -/
theorem jumps64 : Obligations.Jumps64 :=
  ⟨jump64Row_of_jump64 condEq_iff, jump64Row_of_jump64 condGt_iff, jump64Row_of_jump64 condGe_iff,
    jump64Row_of_jump64 condSet_iff, jump64Row_of_jump64 condNe_iff,
    jump64Row_of_jump64 condSgt_iff, jump64Row_of_jump64 condSge_iff,
    jump64Row_of_jump64 condLt_iff, jump64Row_of_jump64 condLe_iff,
    jump64Row_of_jump64 condSlt_iff, jump64Row_of_jump64 condSle_iff⟩

/-- Settles O42: each is `jump32` at its condition. -/
theorem jumps32 : Obligations.Jumps32 :=
  ⟨jump32Row_of_jump32 condEq_iff, jump32Row_of_jump32 condGt_iff, jump32Row_of_jump32 condGe_iff,
    jump32Row_of_jump32 condSet_iff, jump32Row_of_jump32 condNe_iff,
    jump32Row_of_jump32 condSgt_iff, jump32Row_of_jump32 condSge_iff,
    jump32Row_of_jump32 condLt_iff, jump32Row_of_jump32 condLe_iff,
    jump32Row_of_jump32 condSlt_iff, jump32Row_of_jump32 condSle_iff⟩

/-- Settles O43: the two next states of `exec_jump`. -/
theorem jumpFrame : Obligations.JumpFrame := by
  intro i s t h hf
  obtain rfl | ⟨k, rfl, hk, hsecond⟩ := exec_jump hf h
  · exact ⟨rfl, .inl rfl, rfl, fun _ => rfl⟩
  · exact ⟨rfl, .inr ⟨hk, hsecond⟩, rfl, fun _ => rfl⟩

end Sys2Proof.Machine
end

section
/-! `call_local` and `exit` (41_jump.md R202, R205): each check in its order, and the registers and the
call stack after the transfer. -/

namespace Sys2Proof.Machine

variable {s : State} {imm : BitVec 32}

theorem exec_callLocal_of_full (h : s.callStack.length + 2 > s.params.maxCallDepth) :
    exec (.callLocal imm) s = .fault (.callDepth s.pc) :=
  if_pos h

/-- Within MAX_CALL_DEPTH only the target is left to check. -/
theorem exec_callLocal_of_room (h : s.callStack.length + 2 ≤ s.params.maxCallDepth) :
    exec (.callLocal imm) s =
      orFault (jumpTarget s ((s.pc : Int) + 1 + imm.toInt)) fun k => .next (s.enterFunction k) :=
  if_neg (Nat.not_lt.2 h)

/-- Settles O46: the faults are those of `jumpTarget`; the callee's registers are given by
`State.reg_enterFunction`. -/
theorem localCall : Obligations.LocalCall := by
  refine fun imm s => ⟨rfl, exec_callLocal_of_full, fun hroom => ?_⟩
  rw [exec_callLocal_of_room hroom]
  refine ⟨fun hout => ?_, fun k ht hk hsecond => ?_, fun k ht hk hsecond => ?_⟩
  · exact orFault_fault.2 (.inl (jumpTarget_error.2 (.inl ⟨hout, rfl⟩)))
  · exact orFault_fault.2 (.inl (jumpTarget_error.2 (.inr ⟨k, ht, hk, hsecond, rfl⟩)))
  · refine ⟨s.enterFunction k, orFault_next.2 ⟨k, jumpTarget_ok.2 ⟨ht, hk, hsecond⟩, rfl⟩, rfl, ?_,
      fun r hr => ?_, fun r hr => ?_, rfl, rfl, fun _ => rfl, ⟨rfl, rfl, rfl, rfl, rfl, rfl, rfl⟩⟩
    · rw [State.reg_enterFunction, if_neg (by decide), if_pos rfl]
    · rw [State.reg_enterFunction, if_pos hr]
    · rw [State.reg_enterFunction]
      fin_cases hr <;> rfl

theorem exec_exit_of_noValue (h0 : s.reg 0 = .noValue) :
    exec .exit s = .fault (.uninitRegister s.pc 0) :=
  orFault_fault.2 (.inl (readReg_of_noValue h0))

theorem exec_exit_outermost {v : Word} (h0 : s.reg 0 = .value v) (hstack : s.callStack = []) :
    exec .exit s = .next { s with status := .exited v } :=
  execExit_next.2 ⟨v, h0, .inl ⟨hstack, rfl⟩⟩

/-- Settles O47: the registers of the caller are given by `State.reg_leaveFunction`. -/
theorem exit : Obligations.Exit := by
  refine fun s => ⟨rfl, exec_exit_of_noValue, fun v h0 => ⟨exec_exit_outermost h0, ?_⟩⟩
  intro f rest hstack
  refine ⟨_, exec_exit_of_frame h0 hstack, rfl, rfl, ?_, fun r hr => ?_, ?_, ?_, ?_, ?_, ?_, rfl,
    fun _ => rfl, ⟨rfl, rfl, rfl, rfl, rfl, rfl, rfl⟩⟩
  · rw [State.reg_leaveFunction]
    exact h0
  · rw [State.reg_leaveFunction, if_pos hr]
  all_goals rw [State.reg_leaveFunction]; rfl

end Sys2Proof.Machine
end

section
/-! Helper calls (41_jump.md R200, R201, R204): a call whose arguments are there ends as the outcome
picked says, and every outcome of the helper is the one picked for some queue of choices. -/

namespace Sys2Proof.Machine

variable {s : State}

/-! ### What a `Return` leaves -/

theorem Memory.setCells_append (m : Memory) (ws vs : List (Word × Byte)) :
    Memory.setCells m (ws ++ vs) = Memory.setCells (Memory.setCells m ws) vs := by
  induction ws generalizing m with
  | nil => rfl
  | cons w ws ih => exact ih _

/-- The last write to an address is the one that stays. -/
theorem Memory.get_setCells_last (m : Memory) (before after : List (Word × Byte)) (a : Word)
    (b : Byte) (h : ∀ w ∈ after, w.1 ≠ a) :
    Memory.get (Memory.setCells m (before ++ (a, b) :: after)) a.toNat = some b := by
  rw [Memory.setCells_append, Memory.setCells,
    Memory.get_setCells_other _ _ _ fun w hw => mt BitVec.eq_of_toNat_eq (h w hw),
    Memory.get_set_same]

theorem State.byteAt_afterHelper_other (s : State) (r : HelperReturn) {x : Nat}
    (hx : ∀ w ∈ r.writes, w.1.toNat ≠ x) : (s.afterHelper r).byteAt x = s.byteAt x := by
  rw [State.byteAt, State.byteAt, State.afterHelper_mem, Memory.get_setCells_other _ _ _ hx,
    State.afterHelper_memSeed]

theorem State.byteAt_afterHelper_last (s : State) {r : HelperReturn} {a : Word} {b : Byte}
    {before after : List (Word × Byte)} (hr : r.writes = before ++ (a, b) :: after)
    (hlast : ∀ w ∈ after, w.1 ≠ a) : (s.afterHelper r).byteAt a.toNat = b := by
  rw [State.byteAt, State.afterHelper_mem, hr, Memory.get_setCells_last _ _ _ _ _ hlast]

theorem helperReturned_afterHelper (s : State) (r : HelperReturn) :
    HelperReturned s (s.nextDraw.afterHelper r) r where
  result := by rw [State.reg_afterHelper, if_neg (by decide), if_pos rfl]
  args x hx := by rw [State.reg_afterHelper, if_pos hx]
  preserved x hx := by
    obtain ⟨h0, hargs⟩ := not_or.1 (mt List.mem_cons.2 hx)
    rw [State.reg_afterHelper, if_neg hargs, if_neg h0, State.reg_nextDraw]
  callStack := rfl
  pc := rfl
  memMap := rfl
  kept x hx := s.nextDraw.byteAt_afterHelper_other r hx
  written _ _ _ _ hr hlast := s.nextDraw.byteAt_afterHelper_last hr hlast
  program := rfl
  params := rfl
  status := rfl
  memSeed := rfl

/-! ### The outcome of a call -/

/-- With every needed argument there, the call ends as the outcome picked says. -/
theorem helperEnds_runHelper {h : HelperEntry} (hargs : ArgsPresent s h.needs) :
    HelperEnds s (helperOutcome h.helper (helperCall s) (helperPick s)) (runHelper h s) := by
  rw [runHelper, missingArg_none.2 hargs]
  dsimp only
  cases helperOutcome h.helper (helperCall s) (helperPick s) with
  | returns r => exact ⟨_, rfl, helperReturned_afterHelper s r, rfl, rfl⟩
  | faults f => exact rfl
  | leaves => exact rfl

/-- The platform can pick any outcome of the helper: its number at the head of the queue. -/
theorem exists_queue_helperEnds_runHelper {h : HelperEntry} (hargs : ArgsPresent s h.needs)
    {o : HelperOutcome} (ho : GivesOutcome h.helper (helperCall s) o) :
    ∃ q : List Nat, HelperEnds { s with answers := q } o (runHelper h { s with answers := q }) := by
  obtain ⟨k, rfl⟩ := givesOutcome_iff.1 ho
  exact ⟨[k], helperEnds_runHelper (s := { s with answers := [k] }) hargs⟩

theorem runHelper_of_missing {h : HelperEntry} {before after : List (Fin 5)} {k : Fin 5}
    (hneeds : h.needs = before ++ k :: after) (hbefore : ArgsPresent s before)
    (hk : s.reg (argReg k) = .noValue) :
    runHelper h s = .fault (.uninitRegister s.pc (argReg k)) :=
  runHelper_fault.2 (.inl ⟨argReg k, by rw [hneeds]; exact missingArg_first hbefore hk, rfl⟩)

theorem findHelper_eq_none {table : List HelperEntry} {id : BitVec 32}
    (h : ∀ e ∈ table, e.id ≠ id) : findHelper table id = none :=
  List.find?_eq_none.2 fun e he => mt eq_of_beq (h e he)

/-- A call that looks its id up in a table and runs the helper found has the row of that table. -/
theorem helperRow_of_lookup {c : BitVec 32 → Instr} {src : BitVec 4}
    {table : Params → List HelperEntry} {unknown : Nat → BitVec 32 → Fault}
    (hfields : ∀ imm, (c imm).fields = ⟨0x85, 0, src, 0, imm⟩)
    (hunknown : ∀ imm s, findHelper (table s.params) imm = none →
      exec (c imm) s = .fault (unknown s.pc imm))
    (hknown : ∀ imm s h, findHelper (table s.params) imm = some h →
      exec (c imm) s = runHelper h s) :
    HelperRow c src table unknown := by
  refine fun imm s => ⟨hfields imm, fun hids => hunknown imm s (findHelper_eq_none hids),
    fun h hfind => ⟨fun before k after hneeds hbefore hk => ?_, fun hargs => ?_⟩⟩
  · rw [hknown imm s h hfind]
    exact runHelper_of_missing hneeds hbefore hk
  have hpicked : GivesOutcome h.helper (helperCall s)
      (helperOutcome h.helper (helperCall s) (helperPick s)) := givesOutcome_iff.2 ⟨_, rfl⟩
  have hends := helperEnds_runHelper hargs
  rw [← hknown imm s h hfind] at hends
  refine ⟨⟨_, hpicked, hends⟩, fun o ho => ?_, fun hreturns => ?_⟩
  · obtain ⟨q, hq⟩ := exists_queue_helperEnds_runHelper hargs ho
    refine ⟨q, ?_⟩
    rw [hknown imm { s with answers := q } h hfind]
    exact hq
  · obtain ⟨r, hr⟩ := hreturns _ hpicked
    rw [hr] at hpicked hends
    obtain ⟨t, ht, hreturned, -, -⟩ := hends
    exact ⟨r, t, hpicked, ht, hreturned⟩

theorem exec_callHelper_of_none {imm : BitVec 32} (h : findHelper s.params.helpers imm = none) :
    exec (.callHelper imm) s = .fault (.unknownHelper s.pc imm) := by
  rw [exec, execCallHelper, h]
  rfl

theorem exec_callHelper_of_some {imm : BitVec 32} {e : HelperEntry}
    (h : findHelper s.params.helpers imm = some e) : exec (.callHelper imm) s = runHelper e s := by
  rw [exec, execCallHelper, h]

theorem exec_callBtf_of_none {imm : BitVec 32} (h : findHelper s.params.helpersBtf imm = none) :
    exec (.callBtf imm) s = .fault (.unsupported s.pc .callByBtfId) := by
  rw [exec, execCallBtf, h]
  rfl

theorem exec_callBtf_of_some {imm : BitVec 32} {e : HelperEntry}
    (h : findHelper s.params.helpersBtf imm = some e) : exec (.callBtf imm) s = runHelper e s := by
  rw [exec, execCallBtf, h]

/-- Settles O44: each kind of call is a lookup in its own table. -/
theorem helperCalls : Obligations.HelperCalls :=
  ⟨helperRow_of_lookup (fun _ => rfl) (fun _ _ => exec_callHelper_of_none)
      fun _ _ _ => exec_callHelper_of_some,
    helperRow_of_lookup (fun _ => rfl) (fun _ _ => exec_callBtf_of_none)
      fun _ _ _ => exec_callBtf_of_some⟩

end Sys2Proof.Machine
end

section
/-! Refusals (41_jump.md R201): no shared operation but the helper call answers one, since each is a
chain of checks that ends in a next state. -/

namespace Sys2Proof.Machine

variable {s : State} {i : Instr} {q : Refusal}

/-! ### Operations that refuse nothing -/

/-- The outcome is a next state or a fault. -/
def NeverRefuses (o : Result) : Prop := ∀ q, o ≠ .refused q

theorem neverRefuses_next (t : State) : NeverRefuses (.next t) := nofun

theorem neverRefuses_fault (f : Fault) : NeverRefuses (.fault f) := nofun

theorem neverRefuses_orFault {α : Type} {r : Except Fault α} {k : α → Result}
    (hk : ∀ a, NeverRefuses (k a)) : NeverRefuses (orFault r k) := by
  intro q h
  obtain ⟨a, -, ha⟩ := orFault_refused.1 h
  exact hk a q ha

theorem neverRefuses_jumpBy (s : State) (d : Int) : NeverRefuses (jumpBy s d) :=
  neverRefuses_orFault fun _ => neverRefuses_next _

theorem neverRefuses_branch (s : State) (c : Bool) (d : Int) :
    NeverRefuses (if c then jumpBy s d else .next (s.advance 1)) := by
  cases c with
  | true => exact neverRefuses_jumpBy s d
  | false => exact neverRefuses_next _

theorem neverRefuses_store {w : Nat} (b : Word) (off : BitVec 16) (v : BitVec w) (s : State) :
    NeverRefuses (store b off v s) :=
  neverRefuses_orFault fun _ => neverRefuses_next _

theorem neverRefuses_atomicUpdate (w : Nat) (f : BitVec w → BitVec w → BitVec w)
    (finish : BitVec w → State → State) (base : Reg) (off : BitVec 16) (src : Reg) (s : State) :
    NeverRefuses (atomicUpdate w f finish base off src s) :=
  neverRefuses_orFault fun _ => neverRefuses_orFault fun _ => neverRefuses_orFault fun _ =>
    neverRefuses_next _

theorem neverRefuses_loadPlatform (dst : Reg) (v : Option Word) (what : Feature) (s : State) :
    NeverRefuses (loadPlatform dst v what s) := by
  cases v with
  | none => exact neverRefuses_fault _
  | some v => exact neverRefuses_next _

theorem neverRefuses_callLocal (imm : BitVec 32) (s : State) :
    NeverRefuses (execCallLocal imm s) := by
  unfold execCallLocal
  split
  case isTrue => exact neverRefuses_fault _
  case isFalse => exact neverRefuses_orFault fun _ => neverRefuses_next _

theorem neverRefuses_exit (s : State) : NeverRefuses (execExit s) := by
  refine neverRefuses_orFault fun v => ?_
  cases s.callStack with
  | nil => exact neverRefuses_next _
  | cons f rest => exact neverRefuses_next _

/-! ### Every instruction but the helper calls -/

theorem exec_neverRefuses (s : State) (hi : i.family ≠ .helperCall) : NeverRefuses (exec i s) := by
  cases hf : i.family with
  | arithmetic =>
    obtain ⟨g, dst, src, he⟩ | ⟨g, dst, src, he⟩ | ⟨g, dst, he⟩ | ⟨g, dst, src, he⟩ |
      ⟨dst, src, he⟩ | ⟨dst, src, he⟩ := exec_arithmetic_shape s hf <;> rw [he]
    case inl | inr.inl =>
      exact neverRefuses_orFault fun _ => neverRefuses_orFault fun _ => neverRefuses_next _
    all_goals exact neverRefuses_orFault fun _ => neverRefuses_next _
  | jump =>
    obtain ⟨d, he⟩ | ⟨c, dst, src, off, he⟩ | ⟨c, dst, src, off, he⟩ := exec_jump_shape s hf <;>
      rw [he]
    case inl => exact neverRefuses_jumpBy s d
    all_goals
      exact neverRefuses_orFault fun _ => neverRefuses_orFault fun _ => neverRefuses_branch s _ _
  | load =>
    obtain ⟨w, ext, dst, base, off, he⟩ := exec_load_shape s hf
    rw [he]
    exact neverRefuses_orFault fun _ => neverRefuses_orFault fun _ => neverRefuses_next _
  | store =>
    obtain ⟨w, base, off, imm, he⟩ | ⟨w, base, off, src, he⟩ := exec_store_shape s hf <;> rw [he]
    case inl => exact neverRefuses_orFault fun _ => neverRefuses_store _ _ _ s
    case inr =>
      exact neverRefuses_orFault fun _ => neverRefuses_orFault fun _ => neverRefuses_store _ _ _ s
  | atomic =>
    obtain ⟨w, g, base, off, src, he⟩ | ⟨w, g, base, off, src, he⟩ := exec_atomic_shape s hf <;>
      rw [he] <;> exact neverRefuses_atomicUpdate _ _ _ _ _ _ s
  | compareExchange =>
    obtain ⟨w, base, off, src, he⟩ := exec_compareExchange_shape s hf
    rw [he]
    exact neverRefuses_orFault fun _ => neverRefuses_orFault fun _ => neverRefuses_orFault fun _ =>
      neverRefuses_orFault fun _ => neverRefuses_next _
  | localCall =>
    cases i with
    | callLocal imm => exact neverRefuses_callLocal imm s
    | _ => cases hf
  | exit =>
    cases i with
    | exit => exact neverRefuses_exit s
    | _ => cases hf
  | imm64 =>
    obtain ⟨dst, v, he⟩ | ⟨dst, v, what, he⟩ := exec_imm64_shape s hf <;> rw [he]
    case inl => exact neverRefuses_next _
    case inr => exact neverRefuses_loadPlatform _ _ _ s
  | helperCall => exact absurd hf hi

/-! ### Helper calls -/

theorem runHelper_leaves {e : HelperEntry} (h : runHelper e s = .refused q) :
    q = .helperDoesNotReturn ∧ GivesOutcome e.helper (helperCall s) .leaves := by
  obtain ⟨-, hq, hleaves⟩ := runHelper_refused.1 h
  exact ⟨hq, givesOutcome_iff.2 ⟨_, hleaves⟩⟩

/-- A refused helper call has found a helper of one of the two tables and run it. -/
theorem exec_helperCall_refused (hi : i.family = .helperCall) (h : exec i s = .refused q) :
    ∃ e ∈ s.params.helpers ++ s.params.helpersBtf, runHelper e s = .refused q := by
  obtain ⟨imm, he⟩ | ⟨imm, he⟩ := exec_helperCall_shape s hi <;> rw [he] at h
  case inl =>
    split at h
    · cases h
    · next e hfind => exact ⟨e, List.mem_append_left _ (List.mem_of_find?_eq_some hfind), h⟩
  case inr =>
    split at h
    · cases h
    · next e hfind => exact ⟨e, List.mem_append_right _ (List.mem_of_find?_eq_some hfind), h⟩

theorem step_refused (h : step s = .refused q) : ∃ i, fetch s = .ok i ∧ exec i s = .refused q := by
  cases hs : s.status with
  | running =>
    rw [step_of_running hs] at h
    exact orFault_refused.1 h
  | exited v =>
    rw [step_of_exited hs] at h
    cases h
  | faulted f =>
    rw [step_of_faulted hs] at h
    cases h

/-- Settles O24: by `exec_neverRefuses` the instruction is a helper call, and its helper leaves. -/
theorem onlyHelpersAreRefused : Obligations.OnlyHelpersAreRefused := by
  intro s q h
  obtain ⟨i, hfetch, hexec⟩ := step_refused h
  have hi : i.family = .helperCall := by
    by_contra hi
    exact exec_neverRefuses s hi q hexec
  obtain ⟨e, he, hrun⟩ := exec_helperCall_refused hi hexec
  obtain ⟨hq, hleaves⟩ := runHelper_leaves hrun
  exact ⟨hq, ⟨i, hfetch, hi⟩, e, he, hleaves⟩

end Sys2Proof.Machine
end

section
/-! The conformance group of an instruction as a function of its opcode byte and `imm`, and the
decoder's refusal of the words of a group that is not in GROUPS (00_scope.md R2; 43_atomic.md
R275). -/

namespace Sys2Proof

/-- The group the opcode byte and `imm` name: 0xc3 and 0xdb are the atomics, 0xd4, 0xdc and 0xd7 the
byte swaps. -/
def opcodeGroup (op : BitVec 8) (imm : BitVec 32) : Option Group :=
  if op = 0xc3 then some .atomic32
  else if op = 0xdb then some .atomic64
  else if op = 0xd4 ∨ op = 0xdc ∨ op = 0xd7 then
    (if imm = 64 then some .base64 else some .base32)
  else none

theorem opcodeGroup_of_swap {op : BitVec 8} (h : op = 0xd4 ∨ op = 0xdc ∨ op = 0xd7)
    (imm : BitVec 32) : opcodeGroup op imm = some (if imm = 64 then .base64 else .base32) := by
  obtain rfl | rfl | rfl := h <;> exact (apply_ite some _ _ _).symm

/-- The two opcode bytes of an instruction with a K and an X form name the same group. -/
theorem Instr.group_eq_opcodeGroup (i : Instr) :
    i.group = opcodeGroup i.fields.opcode i.fields.imm := by
  cases i with
  | add64 _ x | add32 _ x | sub64 _ x | sub32 _ x | mul64 _ x | mul32 _ x | div64 _ x | div32 _ x
  | sdiv64 _ x | sdiv32 _ x | or64 _ x | or32 _ x | and64 _ x | and32 _ x | lsh64 _ x | lsh32 _ x
  | rsh64 _ x | rsh32 _ x | mod64 _ x | mod32 _ x | smod64 _ x | smod32 _ x | xor64 _ x | xor32 _ x
  | mov64 _ x | mov32 _ x | arsh64 _ x | arsh32 _ x | jeq64 _ x | jeq32 _ x | jgt64 _ x | jgt32 _ x
  | jge64 _ x | jge32 _ x | jset64 _ x | jset32 _ x | jne64 _ x | jne32 _ x | jsgt64 _ x
  | jsgt32 _ x | jsge64 _ x | jsge32 _ x | jlt64 _ x | jlt32 _ x | jle64 _ x | jle32 _ x
  | jslt64 _ x | jslt32 _ x | jsle64 _ x | jsle32 _ x =>
    cases x with
    | imm v => rfl
    | reg r => rfl
  | _ => rfl

theorem EncodedBy.imm {f : Fields} {i : Instr} (h : EncodedBy f i) : f.imm = i.fields.imm := by
  cases hi : i.ignoresSrcField with
  | false => rw [h.fixed hi]
  | true => rw [← h.free hi]

theorem EncodedBy.group {f : Fields} {i : Instr} (h : EncodedBy f i) :
    i.group = opcodeGroup f.opcode f.imm := by
  rw [i.group_eq_opcodeGroup, h.opcode, h.imm]

theorem Instr.mem_of_implemented {i : Instr} {groups : List Group} {g : Group}
    (h : i.implemented groups = true) (hg : i.group = some g) : g ∈ groups := by
  simpa only [Instr.implemented, hg, List.contains_iff_mem] using h

/-- The decoder refuses a word whose opcode byte and `imm` name a group that is not implemented. -/
theorem decode_of_not_implemented {e : Endian} {a : Slot} {g : Group} {groups : List Group}
    (hop : a.b0 ∈ definedOpcodes) (hg : opcodeGroup a.b0 (a.fields e).imm = some g)
    (hnot : g ∉ groups) (b : Option Slot) : decode e groups a b = .error .illegalEncoding := by
  cases h : decode e groups a b with
  | error err => rw [decode_error (not_legacy_of_mem_definedOpcodes _ hop) h]
  | ok i =>
    obtain ⟨hread, -, himpl⟩ := decode_eq_ok_iff.1 h
    have hgroup := hread.encodedBy.group
    rw [Slot.fields_opcode, hg] at hgroup
    exact absurd (Instr.mem_of_implemented himpl hgroup) hnot

end Sys2Proof

namespace Sys2Proof.Machine

/-- Settles O9: the groups by `Instr.group_eq_opcodeGroup`; a word of a group that is left out is
refused by `decode_of_not_implemented`, and 0xcb and 0xd3 are in no table. -/
theorem groupsNotImplemented : Obligations.GroupsNotImplemented := by
  refine ⟨Instr.group_eq_opcodeGroup, fun e groups a b =>
    ⟨fun ha hnot => ?_, fun ha hnot => ?_, fun ha => ?_, fun ha hnot => ?_⟩⟩
  · exact decode_of_not_implemented (by rw [ha]; decide) (by rw [ha]; rfl) hnot b
  · exact decode_of_not_implemented (by rw [ha]; decide) (by rw [ha]; rfl) hnot b
  · have hundefined : a.b0 ∉ definedOpcodes ∧ ¬LegacyOpcode a.b0 := by
      unfold LegacyOpcode
      obtain ha | ha := ha <;> rw [ha] <;> decide
    exact decode_of_undefined hundefined.1 hundefined.2 e groups b
  · have hop : a.b0 ∈ definedOpcodes := by
      obtain ha | ha | ha := ha <;> rw [ha] <;> decide
    exact decode_of_not_implemented hop (opcodeGroup_of_swap ha _) hnot b

end Sys2Proof.Machine
end

section
/-! The atomics (43_atomic.md R251 to R273): each row of the obligations from what the shared
operation answers once its registers are read, where the access passes the check of R251 and where
it fails it. -/

namespace Sys2Proof.Machine

variable {s : State} {b v : Word} {base src : Reg} {off : BitVec 16} {w : Nat}
  {opcode : BitVec 8} {imm : BitVec 32} {c : Reg → BitVec 16 → Reg → Instr}
  {op : BitVec w → BitVec w → BitVec w}

/-! ### The check of an atomic access (43_atomic.md R251) -/

section

variable {a : Word} {n : Nat}

theorem atomicCheck_of_allowed (h : AtomicAllowed s a n) : atomicCheck s a n = .ok () := by
  obtain ⟨halign, htop, hread, hwrite⟩ := h
  exact atomicCheck_ok.2 ⟨halign, htop, covered_iff_allIn.2 hread, covered_iff_allIn.2 hwrite⟩

theorem atomicCheck_of_misaligned (h : a.toNat % n ≠ 0) :
    atomicCheck s a n = .error (.misaligned s.pc a n) := if_pos h

theorem atomicCheck_of_unreadable (ha : a.toNat % n = 0)
    (h : 2 ^ 64 < a.toNat + n ∨ ¬AllIn s.memMap.readable a.toNat n) :
    atomicCheck s a n = .error (.memAccess s.pc a n .read) := by
  rw [← covered_iff_allIn, Bool.not_eq_true] at h
  rw [atomicCheck, if_neg (not_not.2 ha), if_pos h]

theorem atomicCheck_of_unwritable (ha : a.toNat % n = 0) (htop : a.toNat + n ≤ 2 ^ 64)
    (hread : AllIn s.memMap.readable a.toNat n) (h : ¬AllIn s.memMap.writable a.toNat n) :
    atomicCheck s a n = .error (.memAccess s.pc a n .write) := by
  rw [← covered_iff_allIn, Bool.not_eq_true] at h
  have hreadable : ¬(2 ^ 64 < a.toNat + n ∨ covered s.memMap.readable a.toNat n = false) := by
    rintro (h' | h')
    · exact htop.not_gt h'
    · rw [covered_iff_allIn.2 hread] at h'
      cases h'
  rw [atomicCheck, if_neg (not_not.2 ha), if_neg hreadable, if_pos h]

/-- An outcome that is the fault of the check, where the check fails, has the faults of R251 in
their order. -/
theorem atomicFaults_of_check {o : Result}
    (h : ∀ f, atomicCheck s a n = .error f → o = .fault f) : AtomicFaults s a n o :=
  ⟨fun ha => h _ (atomicCheck_of_misaligned ha),
    fun ha hread => h _ (atomicCheck_of_unreadable ha hread),
    fun ha htop hread hwrite => h _ (atomicCheck_of_unwritable ha htop hread hwrite)⟩

end

/-! ### The registers read -/

/-- The fault `f` is that of reading `base`, or, where `base` holds a value, of reading `src`. -/
def OperandFault (s : State) (base src : Reg) (f : Fault) : Prop :=
  readReg s base = .error f ∨ ∃ b, s.reg base = .value b ∧ readReg s src = .error f

theorem atomicReads_of_operandFault
    (hfields : ∀ base off src,
      (c base off src).fields = ⟨opcode, fieldOfReg base, fieldOfReg src, off, imm⟩)
    (hexec : ∀ (base : Reg) (off : BitVec 16) (src : Reg) (s : State) (f : Fault),
      OperandFault s base src f → exec (c base off src) s = .fault f) :
    AtomicReads c opcode imm := fun base off src _ =>
  ⟨hfields base off src,
    fun hbase => hexec _ _ _ _ _ (.inl (readReg_of_noValue hbase)),
    fun b hb hsrc => hexec _ _ _ _ _ (.inr ⟨b, hb, readReg_of_noValue hsrc⟩)⟩

theorem atomicUpdate_of_operandFault {finish : BitVec w → State → State} {f : Fault}
    (h : OperandFault s base src f) : atomicUpdate w op finish base off src s = .fault f :=
  atomicUpdate_fault.2 (h.imp_right fun ⟨b, hb, hsrc⟩ => ⟨b, hb, .inl hsrc⟩)

theorem atomicCompare_of_operandFault {f : Fault} (h : OperandFault s base src f) :
    atomicCompare w base off src s = .fault f :=
  atomicCompare_fault.2 (h.imp_right fun ⟨b, hb, hsrc⟩ => ⟨b, hb, .inl hsrc⟩)

/-- Once its registers are read, an atomic update faults as its check does. -/
theorem atomicFaults_atomicUpdate {finish : BitVec w → State → State}
    (hb : s.reg base = .value b) (hv : s.reg src = .value v) :
    AtomicFaults s (effectiveAddress b off) (w / 8) (atomicUpdate w op finish base off src s) :=
  atomicFaults_of_check fun _ hcheck =>
    atomicUpdate_fault.2 (.inr ⟨b, hb, .inr ⟨v, hv, hcheck⟩⟩)

/-! ### The forms without FETCH (43_atomic.md R252) -/

theorem atomicRow_of_atomicPlain (hw : w / 8 * 8 = w) (hw64 : w ≤ 64)
    (hfields : ∀ base off src,
      (c base off src).fields = ⟨opcode, fieldOfReg base, fieldOfReg src, off, imm⟩)
    (hexec : ∀ base off src s, exec (c base off src) s = atomicPlain w op base off src s) :
    AtomicRow c opcode imm w op := by
  refine ⟨atomicReads_of_operandFault hfields fun base off src s f h => ?_,
    fun base off src s b v hb hv => ?_⟩
  · rw [hexec]
    exact atomicUpdate_of_operandFault h
  · rw [hexec, ← BitVec.setWidth_eq_extractLsb' hw64, ← effectiveAddress]
    refine ⟨fun old hallowed hspells => ?_, atomicFaults_atomicUpdate hb hv⟩
    obtain rfl := (spells_iff_eq_loadValue _ _ hw old).1 hspells
    exact ⟨_, atomicPlain_next.2 ⟨b, v, hb, hv, atomicCheck_of_allowed hallowed, rfl⟩,
      spells_storeValue s _ _, storeValue_keepsBytesOutside s _ _, rfl, rfl, rfl,
      ⟨rfl, rfl, rfl, rfl, rfl, rfl, rfl⟩⟩

/-- Settles O55: each of the eight is `atomicPlain` at its width and operation. -/
theorem atomicUpdates : Obligations.AtomicUpdates :=
  ⟨atomicRow_of_atomicPlain rfl (by decide) (fun _ _ _ => rfl) fun _ _ _ _ => rfl,
    atomicRow_of_atomicPlain rfl (by decide) (fun _ _ _ => rfl) fun _ _ _ _ => rfl,
    atomicRow_of_atomicPlain rfl (by decide) (fun _ _ _ => rfl) fun _ _ _ _ => rfl,
    atomicRow_of_atomicPlain rfl (by decide) (fun _ _ _ => rfl) fun _ _ _ _ => rfl,
    atomicRow_of_atomicPlain rfl (by decide) (fun _ _ _ => rfl) fun _ _ _ _ => rfl,
    atomicRow_of_atomicPlain rfl (by decide) (fun _ _ _ => rfl) fun _ _ _ _ => rfl,
    atomicRow_of_atomicPlain rfl (by decide) (fun _ _ _ => rfl) fun _ _ _ _ => rfl,
    atomicRow_of_atomicPlain rfl (by decide) (fun _ _ _ => rfl) fun _ _ _ _ => rfl⟩

/-! ### The FETCH forms and XCHG (43_atomic.md R252) -/

theorem changesOnly_storeValue_writeReg (s : State) (a : Nat) (x : BitVec w) (r : Reg) (y : Word) :
    ChangesOnly s (((s.storeValue a x).writeReg r y).advance 1) a (w / 8) [r] :=
  (((ChangesOnly.refl s a (w / 8) [r]).storeValue rfl x).writeReg List.mem_cons_self y).advance 1

theorem atomicFetchRow_of_atomicFetch (hw : w / 8 * 8 = w) (hw64 : w ≤ 64)
    (hfields : ∀ base off src,
      (c base off src).fields = ⟨opcode, fieldOfReg base, fieldOfReg src, off, imm⟩)
    (hexec : ∀ base off src s, exec (c base off src) s = atomicFetch w op base off src s) :
    AtomicFetchRow c opcode imm w op := by
  refine ⟨atomicReads_of_operandFault hfields fun base off src s f h => ?_,
    fun base off src s b v hb hv => ?_⟩
  · rw [hexec]
    exact atomicUpdate_of_operandFault h
  · rw [hexec, ← BitVec.setWidth_eq_extractLsb' hw64, ← effectiveAddress]
    refine ⟨fun old hallowed hspells => ?_, atomicFaults_atomicUpdate hb hv⟩
    obtain rfl := (spells_iff_eq_loadValue _ _ hw old).1 hspells
    have hkeep := changesOnly_storeValue_writeReg s (effectiveAddress b off).toNat
      (op (s.loadValue (effectiveAddress b off).toNat w) (v.setWidth w)) src
      ((s.loadValue (effectiveAddress b off).toNat w).setWidth 64)
    exact ⟨_, atomicFetch_next.2 ⟨b, v, hb, hv, atomicCheck_of_allowed hallowed, rfl⟩,
      spells_storeValue s _ _, hkeep.bytes, State.reg_writeReg_same _ src _, hkeep.regs,
      hkeep.callStack, rfl, hkeep.run⟩

/-- Settles O56: each of the ten is `atomicFetch` at its width and operation. -/
theorem atomicFetches : Obligations.AtomicFetches :=
  ⟨atomicFetchRow_of_atomicFetch rfl (by decide) (fun _ _ _ => rfl) fun _ _ _ _ => rfl,
    atomicFetchRow_of_atomicFetch rfl (by decide) (fun _ _ _ => rfl) fun _ _ _ _ => rfl,
    atomicFetchRow_of_atomicFetch rfl (by decide) (fun _ _ _ => rfl) fun _ _ _ _ => rfl,
    atomicFetchRow_of_atomicFetch rfl (by decide) (fun _ _ _ => rfl) fun _ _ _ _ => rfl,
    atomicFetchRow_of_atomicFetch rfl (by decide) (fun _ _ _ => rfl) fun _ _ _ _ => rfl,
    atomicFetchRow_of_atomicFetch rfl (by decide) (fun _ _ _ => rfl) fun _ _ _ _ => rfl,
    atomicFetchRow_of_atomicFetch rfl (by decide) (fun _ _ _ => rfl) fun _ _ _ _ => rfl,
    atomicFetchRow_of_atomicFetch rfl (by decide) (fun _ _ _ => rfl) fun _ _ _ _ => rfl,
    atomicFetchRow_of_atomicFetch rfl (by decide) (fun _ _ _ => rfl) fun _ _ _ _ => rfl,
    atomicFetchRow_of_atomicFetch rfl (by decide) (fun _ _ _ => rfl) fun _ _ _ _ => rfl⟩

/-! ### CMPXCHG (43_atomic.md R253, R272, R273) -/

/-- Memory is replaced by `x` exactly where it holds `expected`. -/
def State.storeOnMatch (s : State) (a : Nat) (expected x : BitVec w) : State :=
  if s.loadValue a w = expected then s.storeValue a x else s

theorem State.storeOnMatch_of_eq {a : Nat} {expected : BitVec w} (h : s.loadValue a w = expected)
    (x : BitVec w) : s.storeOnMatch a expected x = s.storeValue a x := if_pos h

theorem State.storeOnMatch_of_ne {a : Nat} {expected : BitVec w} (h : s.loadValue a w ≠ expected)
    (x : BitVec w) : s.storeOnMatch a expected x = s := if_neg h

theorem changesOnly_storeOnMatch (s : State) (a : Nat) (expected x : BitVec w) (rs : List Reg) :
    ChangesOnly s (s.storeOnMatch a expected x) a (w / 8) rs := by
  by_cases h : s.loadValue a w = expected
  · rw [State.storeOnMatch_of_eq h]
    exact (ChangesOnly.refl s a (w / 8) rs).storeValue rfl x
  · rw [State.storeOnMatch_of_ne h]
    exact .refl s a (w / 8) rs

theorem State.storeOnMatch_pc (s : State) (a : Nat) (expected x : BitVec w) :
    (s.storeOnMatch a expected x).pc = s.pc := by
  unfold State.storeOnMatch
  split <;> rfl

theorem atomicCompare_of_allowed {r0 : Word} (hb : s.reg base = .value b)
    (hv : s.reg src = .value v) (h0 : s.reg 0 = .value r0)
    (h : AtomicAllowed s (effectiveAddress b off) (w / 8)) :
    atomicCompare w base off src s =
      .next (((s.storeOnMatch (effectiveAddress b off).toNat (r0.setWidth w)
        (v.setWidth w)).writeReg 0
          ((s.loadValue (effectiveAddress b off).toNat w).setWidth 64)).advance 1) :=
  atomicCompare_next.2 ⟨b, v, r0, hb, hv, h0, atomicCheck_of_allowed h, rfl⟩

theorem compareExchangeRow_of_atomicCompare (hw : w / 8 * 8 = w) (hw64 : w ≤ 64)
    (hfields : ∀ base off src,
      (c base off src).fields = ⟨opcode, fieldOfReg base, fieldOfReg src, off, imm⟩)
    (hexec : ∀ base off src s, exec (c base off src) s = atomicCompare w base off src s) :
    CompareExchangeRow c opcode imm w := by
  refine ⟨atomicReads_of_operandFault hfields fun base off src s f h => ?_,
    fun base off src s b v hb hv => ?_⟩
  · rw [hexec]
    exact atomicCompare_of_operandFault h
  · rw [hexec, ← BitVec.setWidth_eq_extractLsb' hw64, ← effectiveAddress]
    refine ⟨fun h0 => ?_, fun r0 h0 => ⟨fun old hallowed hspells => ?_, ?_⟩⟩
    · exact atomicCompare_fault.2 (.inr ⟨b, hb, .inr ⟨v, hv, .inl (readReg_of_noValue h0)⟩⟩)
    · obtain rfl := (spells_iff_eq_loadValue _ _ hw old).1 hspells
      rw [← BitVec.setWidth_eq_extractLsb' hw64]
      have hkeep := ((changesOnly_storeOnMatch s (effectiveAddress b off).toNat (r0.setWidth w)
        (v.setWidth w) [0]).writeReg List.mem_cons_self
          ((s.loadValue (effectiveAddress b off).toNat w).setWidth 64)).advance 1
      refine ⟨_, atomicCompare_of_allowed hb hv h0 hallowed, fun hmatch => ⟨?_, hkeep.bytes⟩,
        fun hne => ?_, State.reg_writeReg_same _ 0 _, hkeep.regs, hkeep.callStack,
        congrArg (· + 1) (State.storeOnMatch_pc _ _ _ _), hkeep.run⟩
      · rw [State.storeOnMatch_of_eq hmatch]
        exact spells_storeValue s _ _
      · rw [State.storeOnMatch_of_ne hne]
        exact fun _ => rfl
    · exact atomicFaults_of_check fun _ hcheck => atomicCompare_fault.2
        (.inr ⟨b, hb, .inr ⟨v, hv, .inr ⟨r0, h0, hcheck⟩⟩⟩)

/-- Settles O57: both are `atomicCompare` at their width. -/
theorem compareExchange : Obligations.CompareExchange :=
  ⟨compareExchangeRow_of_atomicCompare rfl (by decide) (fun _ _ _ => rfl) fun _ _ _ _ => rfl,
    compareExchangeRow_of_atomicCompare rfl (by decide) (fun _ _ _ => rfl) fun _ _ _ _ => rfl⟩

end Sys2Proof.Machine
end

section
/-! The 64-bit immediates (44_immediate64.md R281 to R287): `lddw` writes the two immediates side by
side, and the others are `loadPlatform` of the value of their platform function. With them the legacy
modes of R290 and R291, which the decoder refuses by the opcode byte alone. -/

namespace Sys2Proof

/-! ### The legacy modes (44_immediate64.md R290, R291) -/

theorem legacy_of_legacyOpcode {e : Endian} {a : Slot} (h : LegacyOpcode a.b0) :
    (a.fields e).legacy = true := by
  simpa [Fields.legacy, Fields.cls, Fields.mode, LegacyOpcode] using h

theorem not_legacyOpcode_of_wide {a : Slot} (ha : a.b0 = 0x18) : ¬LegacyOpcode a.b0 :=
  ha ▸ not_legacy_of_mem_definedOpcodes 0x18 (by decide)

/-- The decoder refuses a legacy opcode byte before it looks at any other field. -/
theorem decode_of_legacyOpcode {a : Slot} (h : LegacyOpcode a.b0) (e : Endian)
    (groups : List Group) (b : Option Slot) :
    decode e groups a b = .error .legacyPacketAccess := by
  have hbasic : a.b0 ≠ 0x18 := fun ha => not_legacyOpcode_of_wide ha h
  rw [decode_of_basic hbasic, if_pos (legacy_of_legacyOpcode h)]

/-! ### The subtypes that do not use `next_imm` (44_immediate64.md R280) -/

/-- The subtypes whose `next_imm` must be zero (44_immediate64.md R282, R284, R285, R286). -/
def UnusedNextImm (subtype : BitVec 4) : Prop :=
  subtype = 1 ∨ subtype = 3 ∨ subtype = 4 ∨ subtype = 5

theorem Instr.nextImm_of_unusedNextImm {i : Instr} (hwide : i.wide = true)
    (hsrc : UnusedNextImm i.fields.src) : i.nextImm = 0 := by
  cases i with
  | lddw | ldMapValFd | ldMapValIdx => simp [UnusedNextImm, Instr.fields] at hsrc
  | ldMapFd | ldVarAddr | ldCodeAddr | ldMapIdx => rfl
  | _ => cases hwide

/-- A word that was admitted would be the encoding of an instruction of the subtype, whose `next_imm`
is zero. -/
theorem decode_of_unusedNextImm {e : Endian} {groups : List Group} {a b : Slot}
    (ha : a.b0 = 0x18) (hsrc : UnusedNextImm (a.fields e).src) (hnext : (b.fields e).imm ≠ 0) :
    decode e groups a (some b) = .error .illegalEncoding := by
  cases h : decode e groups a (some b) with
  | error err => rw [decode_error (not_legacyOpcode_of_wide ha) h]
  | ok i =>
    obtain ⟨hread, -⟩ := decode_eq_ok_iff.1 h
    cases hread with
    | basic hbasic => exact absurd ha hbasic
    | wide _ _ hb _ hi =>
      cases hb
      have hwide := (decodeWide_reading hi).1
      obtain ⟨hfields, himm⟩ := decodeWide_encodes ((Slot.fields_opcode e a).trans ha) hi
      rw [hfields.fixed (Instr.ignoresSrcField_of_wide hwide)] at hsrc
      exact absurd (himm.trans (Instr.nextImm_of_unusedNextImm hwide hsrc)) hnext

end Sys2Proof

namespace Sys2Proof.Machine

/-- Settles O5: the decoder refuses the slot at `pc` whatever follows it (`decode_of_legacyOpcode`). -/
theorem legacyModesUnsupported : Obligations.LegacyModesUnsupported := by
  intro s a hs ha hlegacy
  rw [step_of_running hs, fetch_of_decode_error ha (decode_of_legacyOpcode hlegacy _ _ _)]
  rfl

/-! ### lddw (44_immediate64.md R281) -/

/-- Settles O58: `lddw` writes the two immediates joined, and joining is shifting and or-ing. -/
theorem loadImmediate64 : Obligations.LoadImmediate64 := by
  intro dst imm next s
  refine ⟨rfl, rfl, rfl, ?_⟩
  rw [← BitVec.setWidth_append_eq_shiftLeft_setWidth_or, BitVec.setWidth_eq]
  rfl

/-! ### The platform functions (44_immediate64.md R282 to R287) -/

theorem mapValueAddress_eq_bind (p : Params) (map : Option Word) (next : BitVec 32) :
    mapValueAddress p map next =
      (map.bind fun m => p.mapVal.lookup m).map fun v => v + next.signExtend 64 := by
  cases map <;> rfl

theorem platformRow_of_loadPlatform {i : Instr} {dst : Reg} {subtype : BitVec 4}
    {imm next : BitVec 32} {value : State → Option Word} {what : Feature}
    (hfields : i.fields = ⟨0x18, fieldOfReg dst, subtype, 0, imm⟩) (hwide : i.wide = true)
    (hnext : i.nextImm = next) (hexec : ∀ s, exec i s = loadPlatform dst (value s) what s) :
    PlatformRow i dst subtype imm next value what := by
  refine ⟨hfields, hwide, hnext, fun s => ?_⟩
  rw [hexec]
  exact ⟨fun v hv => loadPlatform_next.2 ⟨v, hv, rfl⟩, fun hnone => loadPlatform_fault.2 ⟨hnone, rfl⟩⟩

/-- Settles O59: each of the six is `loadPlatform` of its function's value, for the map values through
`mapValueAddress`; a `next_imm` that is not used is refused by `decode_of_unusedNextImm`. -/
theorem platformLoads : Obligations.PlatformLoads := by
  intro dst imm next
  refine ⟨platformRow_of_loadPlatform rfl rfl rfl fun _ => rfl,
    platformRow_of_loadPlatform rfl rfl rfl fun s => ?mapValFd,
    platformRow_of_loadPlatform rfl rfl rfl fun _ => rfl,
    platformRow_of_loadPlatform rfl rfl rfl fun _ => rfl,
    platformRow_of_loadPlatform rfl rfl rfl fun _ => rfl,
    platformRow_of_loadPlatform rfl rfl rfl fun s => ?mapValIdx,
    fun _ _ _ _ => decode_of_unusedNextImm, rfl, rfl, rfl, rfl, rfl⟩
  case mapValFd | mapValIdx =>
    rw [← mapValueAddress_eq_bind]
    rfl

end Sys2Proof.Machine
end

section
/-! Every fault of a step names the faulting instruction by its slot index (60_exceptions.md R301,
R322): a fault of fetch, a fault of the instruction executed (the kinds of each family, from
`exec_arithmetic_faults` to `exec_imm64_faults`), and a fault inside a helper. -/

namespace Sys2Proof.Machine

variable {i : Instr} {s : State} {f : Fault}

/-! ### The kinds of faults -/

theorem IsUninitRegister.pc_eq (h : IsUninitRegister s f) : f.pc = s.pc := by
  obtain ⟨r, rfl⟩ := h
  rfl

theorem IsBadTarget.pc_eq (h : IsBadTarget s f) : f.pc = s.pc := by
  obtain ⟨t, rfl⟩ | ⟨t, rfl⟩ := h <;> rfl

theorem IsBadAtomicAccess.pc_eq (h : IsBadAtomicAccess s f) : f.pc = s.pc := by
  obtain ⟨a, n, kind, rfl⟩ | ⟨a, n, rfl⟩ := h <;> rfl

theorem IsBadAccess.pc_eq {kind : Access} (h : IsBadAccess s kind f) : f.pc = s.pc := by
  obtain ⟨a, n, rfl⟩ | ⟨a, n, rfl⟩ := h <;> rfl

/-! ### Fetch and helpers -/

@[simp] theorem faultOfDecode_pc (pc : Nat) (e : DecodeError) : (faultOfDecode pc e).pc = pc := by
  cases e <;> rfl

/-- A helper's own fault is the fault of the call instruction (41_jump.md R201). -/
@[simp] theorem faultOfHelper_pc (pc : Nat) (e : HelperFault) : (faultOfHelper pc e).pc = pc := by
  cases e <;> rfl

theorem fetch_error_pc (h : fetch s = .error f) : f.pc = s.pc := by
  unfold fetch at h
  split at h
  case h_1 => cases h; rfl
  case h_2 =>
    split at h
    case h_1 => cases h
    case h_2 e _ => cases h; exact faultOfDecode_pc s.pc e

theorem runHelper_fault_pc {e : HelperEntry} (h : runHelper e s = .fault f) : f.pc = s.pc := by
  obtain ⟨r, -, rfl⟩ | ⟨-, e, -, rfl⟩ := runHelper_fault.1 h
  · rfl
  · exact faultOfHelper_pc s.pc e

theorem exec_helperCall_fault_pc (hi : i.family = .helperCall) (h : exec i s = .fault f) :
    f.pc = s.pc := by
  obtain ⟨imm, he⟩ | ⟨imm, he⟩ := exec_helperCall_shape s hi <;> rw [he] at h
  case inl | inr =>
    split at h
    · cases h
      rfl
    · exact runHelper_fault_pc h

/-! ### Every step -/

theorem exec_fault_pc (h : exec i s = .fault f) : f.pc = s.pc := by
  cases hi : i.family with
  | arithmetic => exact (exec_arithmetic_faults hi h).pc_eq
  | jump => exact (exec_jump_faults hi h).elim (·.pc_eq) (·.pc_eq)
  | helperCall => exact exec_helperCall_fault_pc hi h
  | localCall => exact (exec_localCall_faults hi h).elim (fun hf => hf ▸ rfl) (·.pc_eq)
  | exit => rw [exec_exit_faults hi h]; rfl
  | load => exact (exec_load_faults hi h).elim (·.pc_eq) (·.pc_eq)
  | store => exact (exec_store_faults hi h).elim (·.pc_eq) (·.pc_eq)
  | atomic => exact (exec_atomic_faults hi h).elim (·.pc_eq) (·.pc_eq)
  | compareExchange => exact (exec_compareExchange_faults hi h).elim (·.pc_eq) (·.pc_eq)
  | imm64 =>
    obtain ⟨what, rfl⟩ := exec_imm64_faults hi h
    rfl

/-- Settles O25: the fault is one of fetch or of the instruction fetched. -/
theorem faultsCarryPc : Obligations.FaultsCarryPc := by
  intro s f hs h
  rw [step_of_running hs] at h
  obtain hfetch | ⟨i, -, hexec⟩ := orFault_fault.1 h
  · exact fetch_error_pc hfetch
  · exact exec_fault_pc hexec

end Sys2Proof.Machine
end
